-- ==== Sys2Proof/Word.lean ====
section
/-! DEFINITION. The word types of the block (R11): unsigned integers of 8, 16 and 32 bits, and the
32-bit encoding of a binary32 value. Nothing else lives here. -/

namespace Sys2Proof

/-- `u8`, also `i8` in two's complement (R11). -/
abbrev Byte := BitVec 8

/-- `u16`, also `i16` in two's complement (R11). -/
abbrev U16 := BitVec 16

/-- `u32` (R11). -/
abbrev U32 := BitVec 32

/-- A binary32 value, held as its encoding: `bits_of` and `f32_of` (R12) are the identity. -/
abbrev F32 := BitVec 32

end Sys2Proof
end

