-- ==== Sys2Proof/Config.lean ====
section
/-! DEFINITION. The implementation parameters of R8, the example configuration EX of R9, and the free
values: constants without a body, which no proof can evaluate. -/

namespace Sys2Proof

/-- A setpoint (R17): hold raw target `target` for `duration` ticks. -/
structure Setpoint where
  duration : U16
  target : U16
  deriving DecidableEq, Repr, Inhabited

/-- A batch (R17). The spec's field `count` is the length of `sp` (log 16). -/
structure Batch where
  delay : U16
  loop : U16
  sp : List Setpoint
  deriving DecidableEq, Repr, Inhabited

/-- The field `count` of a batch (R17). -/
def Batch.count (b : Batch) : Nat := b.sp.length

/-- A board identity (R8): its address `ADDR(id)` and its three diagnostic codes. `ADDR` is injective
(R10), so the record stands for the identity itself (log 17). -/
structure Identity where
  addr : Byte
  diagPing : Byte
  diagSelftest : Byte
  diagValue : Byte
  deriving DecidableEq, Repr, Inhabited

/-- `CK_WIDTH` (R8, R75). -/
inductive CkWidth where
  | w16
  | w32
  deriving DecidableEq, Repr

/-- `KD_MODE` (R8, R125). -/
inductive KdMode where
  | mul
  | div
  deriving DecidableEq, Repr

/-- `STRATEGY` (R8, R130). -/
inductive Strategy where
  | pid
  | pulse
  deriving DecidableEq, Repr

/-- The parameters of R8, plain data. `TEXT_VALUE`, a function, is `Config.textValue` below; `CKB` and
`MAX_SP` are derived (Machine/Params.lean). CRC parameters are held zero-extended to 32 bits. -/
structure Config where
  ckWidth : CkWidth
  ckPoly : U32
  ckInit : U32
  ckRefin : Bool
  ckRefout : Bool
  ckXorout : U32
  maxPayload : Nat
  qdepth : Nat
  poolSlots : Nat
  loopInf : U16
  tickHz : F32
  noise : F32
  maxStep : F32
  driveMax : F32
  kdMode : KdMode
  rawScale : F32
  calUpper : F32
  strategy : Strategy
  identities : List Identity
  /-- `STRAP_TABLE`; a pattern that is not listed maps to Invalid (R84). -/
  strapTable : List (BitVec 4 × Identity)
  broadcastAddr : Byte
  mtPing : Byte
  mtSelftest : Byte
  mtReadvalue : Byte
  mtSetcoeff : Byte
  mtSetbatch : Byte
  mtSleep : Byte
  mtError : Byte
  errUnknownType : U16
  errBadSize : U16
  errQueueFull : U16
  errNotPid : U16
  errTooLarge : U16
  ackByte : Byte
  textSelftest : List Byte
  selftestBatch : Batch
  portInternal : Bool
  deriving DecidableEq, Repr

namespace Config

/-! ### Free values (log 3, 4, 5, 24) -/

/-- The binary32 operations that can give a NaN (R15). -/
inductive FloatOp where
  | add
  | mul
  | div
  deriving DecidableEq, Repr

/-- FREE VALUE: the sign of a NaN result (93_implementation_defined part 2: any value among NaNs). -/
opaque nanSign : FloatOp → F32 → F32 → Bool

/-- FREE VALUE: the fraction of a NaN result; a 0 stands for 1, since a NaN has a non-zero fraction
(93_implementation_defined part 2). -/
opaque nanPayload : FloatOp → F32 → F32 → BitVec 23

/-- FREE VALUE: the n-th draw of the sensor port by `sample()` (R14, R37): any binary32 value. -/
opaque sensorSample : Nat → F32

/-- OPEN parameter `TEXT_VALUE(p)` (R8, D14). -/
opaque textValue : F32 → List Byte

/-- OPEN parameter `TEXT_SELFTEST` (R8, D14), as configuration EX has it: no value is decided. -/
opaque openTextSelftest : List Byte

/-- OPEN parameter `SELFTEST_BATCH` (R8, D41), as configuration EX has it: no value is decided. -/
opaque openSelftestBatch : Batch

/-- OPEN durations and bit rate of R8 and R150; no rule reads them. -/
opaque tHdr : Nat
/-- OPEN (R8, R150). -/
opaque tPay : U16 → Nat
/-- OPEN (R8, R150). -/
opaque tFoot : Nat
/-- OPEN (R8, R150). -/
opaque tTx : Nat
/-- OPEN (R8, R150). -/
opaque bitrate : Nat

/-! ### Configuration EX (R9) -/

/-- Identity A of EX (R9). -/
def idA : Identity := { addr := 0x01, diagPing := 0x61, diagSelftest := 0x41, diagValue := 0x31 }

/-- Identity B of EX (R9). -/
def idB : Identity := { addr := 0x02, diagPing := 0x62, diagSelftest := 0x42, diagValue := 0x32 }

/-- The example configuration EX (R9): every parameter at the value of R8, the message type codes of
R65 and the error codes of R66. -/
def ex : Config where
  ckWidth := .w16
  ckPoly := 0x1021
  ckInit := 0xFFFF
  ckRefin := false
  ckRefout := false
  ckXorout := 0x0000
  maxPayload := 1024
  qdepth := 8
  poolSlots := 11
  loopInf := 0xFFFF
  tickHz := 0x447A0000
  noise := 0x3C23D70A
  maxStep := 0x3C8EFA35
  driveMax := 0x42FE0000
  kdMode := .mul
  rawScale := 0x38C90FDB
  calUpper := 0x40400000
  strategy := .pid
  identities := [idA, idB]
  strapTable := [(0b0001, idA), (0b0010, idB)]
  broadcastAddr := 0xFF
  mtPing := 0x01
  mtSelftest := 0x02
  mtReadvalue := 0x03
  mtSetcoeff := 0x04
  mtSetbatch := 0x05
  mtSleep := 0x06
  mtError := 0x7F
  errUnknownType := 0xFFFF
  errBadSize := 0xFFFE
  errQueueFull := 0xFFFD
  errNotPid := 0xFFFC
  errTooLarge := 0xFFFB
  ackByte := 0x06
  textSelftest := openTextSelftest
  selftestBatch := openSelftestBatch
  portInternal := false

/-- EX with the 32-bit checksum and its default parameters (R8, R75). -/
def ex32 : Config :=
  { ex with
    ckWidth := .w32, ckPoly := 0x04C11DB7, ckInit := 0xFFFFFFFF, ckRefin := true, ckRefout := true,
    ckXorout := 0xFFFFFFFF }

end Config

end Sys2Proof
end

