-- ==== Sys2Proof/Syntax.lean ====
section
/-! DEFINITION. The instructions: one constructor per row of the opcode table, in its three formats
CMD16, WIRE-TYPE and DIAG-BYTE, and what carries each format. -/

namespace Sys2Proof

/-- An operation of the block. Operand words are already decoded (R69). -/
inductive Instr where
  -- CMD16: block and checksum calculator
  | blkBoot (strap : BitVec 4)
  | ckReset
  | ckUpdate (b : Byte)
  | ckUpdateMany (bs : List Byte)
  | ckValue
  -- CMD16: frame synchronizer
  | fsStart
  | fsRxbyte (b : Byte)
  | fsTimeout
  | fsIsSelf (a : Byte)
  -- CMD16: setpoint scheduler
  | schTimer
  | schTick (p : F32)
  | schEnqueue (batch : Batch)
  | schStop
  | schCurpos
  -- CMD16: PID controller and render strategy
  | pidSetcoef (kp ki kd : F32)
  | pidSetsp (t : F32)
  | pidUpdate (pos : F32)
  | rndReset
  | rndBefore
  | rndCompute (raw : U16)
  | rndAfter
  | rndFilter (p : F32)
  -- WIRE-TYPE: the service of a verified frame of this type; its payload is in PBUF
  | mtPing
  | mtSelftest
  | mtReadvalue
  | mtSetcoeff
  | mtSetbatch
  | mtSleep
  | mtError
  -- DIAG-BYTE: the service of one of the board's own diagnostic codes
  | diagPing
  | diagSelftest
  | diagValue
  deriving DecidableEq, Repr

/-- A command as it is presented on the command port: a 16-bit command word and its 32-bit operand
words (R68). -/
structure Command where
  cmd : U16
  dat : List U32
  deriving DecidableEq, Repr

/-- What carries an instruction, by the format of its row: a port command (R68), the type byte of a
frame (R56, R65) or a byte received in place of an address byte (R59). -/
inductive Code where
  | port (c : Command)
  | wireType (b : Byte)
  | diagByte (b : Byte)
  deriving DecidableEq, Repr

/-- The classes of port operations: those of R70, the external ones split by what the mode gate of
R140 does with them in BOOT. -/
inductive OpClass where
  /-- external, `BLK.BOOT` -/
  | boot
  /-- external, the checksum operations -/
  | checksum
  /-- external, `FS.RXBYTE` and `FS.TIMEOUT` -/
  | receive
  /-- every other external operation -/
  | external
  /-- executed by `TIMER` or `TICKCTX` -/
  | agent
  /-- accepted on the port only when `PORT_INTERNAL` is true -/
  | internal
  deriving DecidableEq, Repr

end Sys2Proof
end

