-- ==== Sys2Proof/WellFormed.lean ====
section
/-! DEFINITION. Which instructions their encodings can carry. Byte, u16, u32, f32 and strap operands
fit by their types; the two operands of varying length must fit their count fields (R69). -/

namespace Sys2Proof

/-- `dat[0] = n` carries the length of a byte sequence in 32 bits (R69). -/
def ByteSeq.fits (bs : List Byte) : Bool := decide (bs.length < 2 ^ 32)

/-- `dat[1][15:0]` carries the number of setpoints in 16 bits (R69). -/
def Batch.fits (b : Batch) : Bool := decide (b.count < 2 ^ 16)

/-- The operands of the instruction fit the encoding of R69. -/
def Instr.WellFormed : Instr → Bool
  | .ckUpdateMany bs => ByteSeq.fits bs
  | .schEnqueue b => b.fits
  | .blkBoot _ => true
  | .ckReset => true
  | .ckUpdate _ => true
  | .ckValue => true
  | .fsStart => true
  | .fsRxbyte _ => true
  | .fsTimeout => true
  | .fsIsSelf _ => true
  | .schTimer => true
  | .schTick _ => true
  | .schStop => true
  | .schCurpos => true
  | .pidSetcoef _ _ _ => true
  | .pidSetsp _ => true
  | .pidUpdate _ => true
  | .rndReset => true
  | .rndBefore => true
  | .rndCompute _ => true
  | .rndAfter => true
  | .rndFilter _ => true
  | .mtPing => true
  | .mtSelftest => true
  | .mtReadvalue => true
  | .mtSetcoeff => true
  | .mtSetbatch => true
  | .mtSleep => true
  | .mtError => true
  | .diagPing => true
  | .diagSelftest => true
  | .diagValue => true

end Sys2Proof
end

