-- ==== Sys2Proof/Decode.lean ====
section
/-! DEFINITION. The decoder of the three formats of the opcode table, total and rejecting by name, and
after it the encoder, both written from R58, R59, R65, R68, R69 and R70. -/

namespace Sys2Proof

/-- Why the command port decoder rejects a command. -/
inductive PortRejection where
  /-- a command word whose opcode is not in the opcode map (R71) -/
  | illegalOpcode (op : Byte)
  /-- an opcode of the map with fewer operand words than R72 gives its command (log 9) -/
  | missingOperands (op : Byte)
  deriving DecidableEq, Repr

/-- Why the decoder rejects. -/
inductive Rejection where
  | port (r : PortRejection)
  /-- a type byte that is not in the table of R65 -/
  | unknownType (b : Byte)
  /-- a byte that is none of the board's own diagnostic codes (R59) -/
  | notDiagnostic (b : Byte)
  deriving DecidableEq, Repr

/-! ### Operand words (R69) -/

/-- The opcode, `cmd[15:8]` (R68). -/
def cmdOpcode (cmd : U16) : Byte := cmd.extractLsb' 8 8

/-- The byte operand `imm8`, `cmd[7:0]` (R68). -/
def cmdImm8 (cmd : U16) : Byte := cmd.extractLsb' 0 8

/-- `dat[15:0]`. -/
def lowHalf (w : U32) : U16 := w.extractLsb' 0 16

/-- `dat[31:16]`. -/
def highHalf (w : U32) : U16 := w.extractLsb' 16 16

/-- The operand word with these two halves. -/
def wordOfHalves (hi lo : U16) : U32 := hi ++ lo

/-- The four bytes of an operand word, byte 0 in bits 7:0 (R69, "byte sequence"). -/
def bytesOfWord (w : U32) : List Byte :=
  [w.extractLsb' 0 8, w.extractLsb' 8 8, w.extractLsb' 16 8, w.extractLsb' 24 8]

/-- The number of operand words that hold `n` bytes, `ceil(n/4)` (R69). -/
def wordsForBytes (n : Nat) : Nat := (n + 3) / 4

/-- A byte sequence operand (R69): `none` when operand words are missing. DESIGN CHOICE: the bytes past the
n-th in the last word, to which R69 gives no meaning, are ignored whatever they hold (log 27). -/
def decodeByteSeq (dat : List U32) : Option (List Byte) :=
  match dat with
  | [] => none
  | n :: ws =>
    if wordsForBytes n.toNat ≤ ws.length then
      some (((ws.take (wordsForBytes n.toNat)).flatMap bytesOfWord).take n.toNat)
    else none

/-- One setpoint of a Batch operand: duration in the low half, target in the high half (R69). -/
def decodeSetpoint (w : U32) : Setpoint := { duration := lowHalf w, target := highHalf w }

/-- A Batch operand (R69): `none` when operand words are missing. DEDUCED: the count is read from the second
operand word, `dat[1][15:0]`, as R69 places it, though R72 says that the first operand word gives it (log 28).
DESIGN CHOICE: `dat[1][31:16]`, to which R69 gives no meaning, is ignored whatever it holds (log 27). -/
def decodeBatch (dat : List U32) : Option Batch :=
  match dat with
  | d0 :: d1 :: ws =>
    if (lowHalf d1).toNat ≤ ws.length then
      some
        { delay := lowHalf d0, loop := highHalf d0
          sp := (ws.take (lowHalf d1).toNat).map decodeSetpoint }
    else none
  | _ => none

/-! ### The decoder -/

/-- The class of an opcode in the map of R70; `none` for an opcode outside the map (R71). -/
def opClass (op : Byte) : Option OpClass :=
  match op.toNat with
  | 0x01 => some .boot
  | 0x10 => some .checksum
  | 0x11 => some .checksum
  | 0x12 => some .checksum
  | 0x13 => some .checksum
  | 0x20 => some .external
  | 0x21 => some .receive
  | 0x22 => some .receive
  | 0x23 => some .external
  | 0x30 => some .agent
  | 0x31 => some .agent
  | 0x32 => some .external
  | 0x33 => some .internal
  | 0x34 => some .external
  | 0x40 => some .external
  | 0x41 => some .internal
  | 0x42 => some .internal
  | 0x48 => some .internal
  | 0x49 => some .internal
  | 0x4A => some .internal
  | 0x4B => some .internal
  | 0x4C => some .internal
  | _ => none

/-- An instruction with one operand word (R69). -/
def oneOperand (op : Byte) (dat : List U32) (k : U32 → Instr) : Except PortRejection Instr :=
  match dat with
  | w :: _ => .ok (k w)
  | [] => .error (.missingOperands op)

/-- An instruction with three operand words (R69). -/
def threeOperands (op : Byte) (dat : List U32) (k : U32 → U32 → U32 → Instr) :
    Except PortRejection Instr :=
  match dat with
  | w0 :: w1 :: w2 :: _ => .ok (k w0 w1 w2)
  | _ => .error (.missingOperands op)

/-- An instruction whose operand is read from the operand words by `f` (R69). -/
def readOperand {α : Type} (op : Byte) (f : Option α) (k : α → Instr) :
    Except PortRejection Instr :=
  match f with
  | some x => .ok (k x)
  | none => .error (.missingOperands op)

/-- The command port decoder (R68, R69, R70). Operand words past the command's length are not read
(log 9). -/
def decodePort (c : Command) : Except PortRejection Instr :=
  let op := cmdOpcode c.cmd
  let imm := cmdImm8 c.cmd
  match op.toNat with
  | 0x01 => .ok (.blkBoot (imm.extractLsb' 0 4))
  | 0x10 => .ok .ckReset
  | 0x11 => .ok (.ckUpdate imm)
  | 0x12 => readOperand op (decodeByteSeq c.dat) .ckUpdateMany
  | 0x13 => .ok .ckValue
  | 0x20 => .ok .fsStart
  | 0x21 => .ok (.fsRxbyte imm)
  | 0x22 => .ok .fsTimeout
  | 0x23 => .ok (.fsIsSelf imm)
  | 0x30 => .ok .schTimer
  | 0x31 => oneOperand op c.dat .schTick
  | 0x32 => readOperand op (decodeBatch c.dat) .schEnqueue
  | 0x33 => .ok .schStop
  | 0x34 => .ok .schCurpos
  | 0x40 => threeOperands op c.dat .pidSetcoef
  | 0x41 => oneOperand op c.dat .pidSetsp
  | 0x42 => oneOperand op c.dat .pidUpdate
  | 0x48 => .ok .rndReset
  | 0x49 => .ok .rndBefore
  | 0x4A => oneOperand op c.dat fun w => .rndCompute (lowHalf w)
  | 0x4B => .ok .rndAfter
  | 0x4C => oneOperand op c.dat .rndFilter
  | _ => .error (.illegalOpcode op)

/-- The message type of a frame (R65, R98). -/
def decodeType (cfg : Config) (b : Byte) : Option Instr :=
  if b = cfg.mtPing then some .mtPing
  else if b = cfg.mtSelftest then some .mtSelftest
  else if b = cfg.mtReadvalue then some .mtReadvalue
  else if b = cfg.mtSetcoeff then some .mtSetcoeff
  else if b = cfg.mtSetbatch then some .mtSetbatch
  else if b = cfg.mtSleep then some .mtSleep
  else if b = cfg.mtError then some .mtError
  else none

/-- The diagnostic code of a byte, for a board of this identity (R59, R89). -/
def decodeDiag (id : Identity) (b : Byte) : Option Instr :=
  if b = id.diagPing then some .diagPing
  else if b = id.diagSelftest then some .diagSelftest
  else if b = id.diagValue then some .diagValue
  else none

/-- The decoder's answer for a byte: the instruction, or the rejection by name. -/
def orReject (i : Option Instr) (r : Rejection) : Except Rejection Instr :=
  match i with
  | some i => .ok i
  | none => .error r

/-- The port decoder's answer as the decoder's. -/
def ofPort : Except PortRejection Instr → Except Rejection Instr
  | .ok i => .ok i
  | .error r => .error (.port r)

/-- The decoder of the whole opcode table, for a board of identity `id`. -/
def decode (cfg : Config) (id : Identity) : Code → Except Rejection Instr
  | .port c => ofPort (decodePort c)
  | .wireType b => orReject (decodeType cfg b) (.unknownType b)
  | .diagByte b => orReject (decodeDiag id b) (.notDiagnostic b)

/-! ### The encoder -/

/-- A command word: the opcode in bits 15:8 and `imm8` in bits 7:0 (R68). -/
def cmdWord (op imm : Byte) : U16 := op ++ imm

/-- A command with no operand words. -/
def plainCommand (op imm : Byte) : Code := .port { cmd := cmdWord op imm, dat := [] }

/-- A command with operand words; ignored bits of the command word are written 0. -/
def wordsCommand (op : Byte) (dat : List U32) : Code := .port { cmd := cmdWord op 0, dat := dat }

/-- The operand word of up to four bytes, byte 0 in bits 7:0 (R69). -/
def wordOfBytes (b0 b1 b2 b3 : Byte) : U32 := b3 ++ b2 ++ b1 ++ b0

/-- The operand words of a byte sequence after its length word (R69); unused bytes are 0. -/
def packBytes : List Byte → List U32
  | [] => []
  | [b0] => [wordOfBytes b0 0 0 0]
  | [b0, b1] => [wordOfBytes b0 b1 0 0]
  | [b0, b1, b2] => [wordOfBytes b0 b1 b2 0]
  | b0 :: b1 :: b2 :: b3 :: bs => wordOfBytes b0 b1 b2 b3 :: packBytes bs

/-- The operand words of a byte sequence (R69). -/
def encodeByteSeq (bs : List Byte) : List U32 := BitVec.ofNat 32 bs.length :: packBytes bs

/-- The operand words of a Batch (R69), the count in the second (log 28). -/
def encodeBatch (b : Batch) : List U32 :=
  wordOfHalves b.loop b.delay :: wordOfHalves 0 (BitVec.ofNat 16 b.count) ::
    b.sp.map fun x => wordOfHalves x.target x.duration

/-- The words of an instruction, for a board of identity `id` (R65, R59, R70). -/
def encode (cfg : Config) (id : Identity) : Instr → Code
  | .blkBoot strap => plainCommand 0x01 (strap.setWidth 8)
  | .ckReset => plainCommand 0x10 0
  | .ckUpdate b => plainCommand 0x11 b
  | .ckUpdateMany bs => wordsCommand 0x12 (encodeByteSeq bs)
  | .ckValue => plainCommand 0x13 0
  | .fsStart => plainCommand 0x20 0
  | .fsRxbyte b => plainCommand 0x21 b
  | .fsTimeout => plainCommand 0x22 0
  | .fsIsSelf a => plainCommand 0x23 a
  | .schTimer => plainCommand 0x30 0
  | .schTick p => wordsCommand 0x31 [p]
  | .schEnqueue b => wordsCommand 0x32 (encodeBatch b)
  | .schStop => plainCommand 0x33 0
  | .schCurpos => plainCommand 0x34 0
  | .pidSetcoef kp ki kd => wordsCommand 0x40 [kp, ki, kd]
  | .pidSetsp t => wordsCommand 0x41 [t]
  | .pidUpdate pos => wordsCommand 0x42 [pos]
  | .rndReset => plainCommand 0x48 0
  | .rndBefore => plainCommand 0x49 0
  | .rndCompute raw => wordsCommand 0x4A [wordOfHalves 0 raw]
  | .rndAfter => plainCommand 0x4B 0
  | .rndFilter p => wordsCommand 0x4C [p]
  | .mtPing => .wireType cfg.mtPing
  | .mtSelftest => .wireType cfg.mtSelftest
  | .mtReadvalue => .wireType cfg.mtReadvalue
  | .mtSetcoeff => .wireType cfg.mtSetcoeff
  | .mtSetbatch => .wireType cfg.mtSetbatch
  | .mtSleep => .wireType cfg.mtSleep
  | .mtError => .wireType cfg.mtError
  | .diagPing => .diagByte id.diagPing
  | .diagSelftest => .diagByte id.diagSelftest
  | .diagValue => .diagByte id.diagValue

/-! ### The opcode table's numbering -/

/-- The operand words of a number whose bits 15:0 are the command word: word `k` is bits
`16 + 32k + 31 : 16 + 32k`. -/
def tableOperands (w : Nat) : Nat → List U32
  | 0 => []
  | k + 1 => BitVec.ofNat 32 w :: tableOperands (w >>> 32) k

/-- The number of operand words of the longest instruction that a row of `nbits` bits and zeros above
them can be: three of zeros, and the words of the bits above bit 15. -/
def tableOperandCount (nbits : Nat) : Nat := (nbits - 16 + 31) / 32 + 3

/-- The command whose bits are `w`, operand words above `nbits` zero. -/
def tableCommand (nbits w : Nat) : Command :=
  { cmd := BitVec.ofNat 16 w
    dat := tableOperands ((w % 2 ^ nbits) >>> 16) (tableOperandCount nbits) }

/-- A row of 8 bits is a byte: the type byte of a frame where the table of R65 has it, else a byte
received in place of an address byte (log 26). -/
def tableByte (cfg : Config) (b : Byte) : Code :=
  match decodeType cfg b with
  | some _ => .wireType b
  | none => .diagByte b

/-- What carries an instruction whose bits are `w`. -/
def tableCode (cfg : Config) (nbits w : Nat) : Code :=
  if nbits ≤ 8 then tableByte cfg (BitVec.ofNat 8 w) else .port (tableCommand nbits w)

/-- The instruction the decoder reads from the bits `w` of an opcode-table row: configuration EX,
identity A, as the table's rows have it. -/
def decodeTableWord (nbits w : Nat) : Option Instr :=
  (decode Config.ex Config.idA (tableCode Config.ex nbits w)).toOption

end Sys2Proof
end

