-- ==== Sys2Proof/Machine/Operands.lean ====
section
/-! DEFINITION. Operand forms: little-endian integers (R12, R44), result words (R69), and the fields of a
binary32 encoding (R11, R15). -/

namespace Sys2Proof.Machine

/-! ### Little-endian integers (R12, R44) -/

/-- The value of a byte sequence, low byte first: `le16`, `le32` of R12 at 2 and 4 bytes. -/
def leValue : List Byte → Nat
  | [] => 0
  | b :: bs => b.toNat + 256 * leValue bs

/-- `bytes_le16` (R12). -/
def bytesLe16 (v : U16) : List Byte := [v.extractLsb' 0 8, v.extractLsb' 8 8]

/-- `bytes_le32` (R12). -/
def bytesLe32 (v : U32) : List Byte :=
  [v.extractLsb' 0 8, v.extractLsb' 8 8, v.extractLsb' 16 8, v.extractLsb' 24 8]

/-! ### Result words (R69) -/

/-- An i16 result, sign-extended to 32 bits. -/
def resI16 (v : U16) : U32 := v.signExtend 32

/-- An i8 result, sign-extended to 32 bits. -/
def resI8 (v : Byte) : U32 := v.signExtend 32

/-- A bool result: 1 for true, 0 for false. -/
def resBool (b : Bool) : U32 := if b then 1 else 0

/-! ### Fields of a binary32 encoding (R15; log 18) -/

/-- The sign bit. -/
def F32.sign (a : F32) : Bool := a.msb

/-- The encoding without its sign bit: the larger it is, the larger the magnitude. -/
def F32.magnitude (a : F32) : Nat := a.toNat % 2 ^ 31

/-- The exponent field. -/
def F32.exponent (a : F32) : Nat := F32.magnitude a / 2 ^ 23

/-- The fraction field. -/
def F32.fraction (a : F32) : Nat := a.toNat % 2 ^ 23

/-- The magnitude of a finite value in units of 2^-149, the smallest subnormal. -/
def F32.units (a : F32) : Nat :=
  if F32.exponent a = 0 then F32.fraction a
  else (F32.fraction a + 2 ^ 23) * 2 ^ (F32.exponent a - 1)

/-- A finite value in units of 2^-149. -/
def F32.signedUnits (a : F32) : Int := if F32.sign a then -(F32.units a : Int) else F32.units a

/-- The encoding with this sign and magnitude field. -/
def F32.ofMagnitude (s : Bool) (m : Nat) : F32 :=
  BitVec.ofNat 32 (if s then 2 ^ 31 + m else m)

end Sys2Proof.Machine
end

