-- ==== Sys2Proof/Machine/Flags.lean ====
section
/-! DEFINITION. The block has no condition codes (R34). The conditions its pseudocode tests on binary32
values are here: classification, comparison and `clamp` (R15, R17). -/

namespace Sys2Proof.Machine

/-- `isnan(x)` (R15). -/
def F32.isNaN (a : F32) : Bool := F32.exponent a == 255 && F32.fraction a != 0

/-- The value is an infinity. -/
def F32.isInf (a : F32) : Bool := F32.exponent a == 255 && F32.fraction a == 0

/-- `finite(x)` (R15): neither an infinity nor a NaN. -/
def F32.finite (a : F32) : Bool := F32.exponent a != 255

/-- The order of the values that are not NaN: both zeros at 0. -/
def F32.key (a : F32) : Int :=
  if F32.sign a then -(F32.magnitude a : Int) else F32.magnitude a

/-- `a > b`, false when either operand is a NaN (R15). -/
def F32.gt (a b : F32) : Bool :=
  !F32.isNaN a && !F32.isNaN b && decide (F32.key b < F32.key a)

/-- `a < b`, false when either operand is a NaN (R15). -/
def F32.lt (a b : F32) : Bool := F32.gt b a

/-- `a <= b`, false when either operand is a NaN (R15, R132). -/
def F32.le (a b : F32) : Bool :=
  !F32.isNaN a && !F32.isNaN b && decide (F32.key a ≤ F32.key b)

/-- The value with its sign bit flipped. -/
def F32.neg (a : F32) : F32 := a ^^^ 0x80000000#32

/-- `fabs(x)`: the sign bit cleared (R15). -/
def F32.abs (a : F32) : F32 := a &&& 0x7FFFFFFF#32

/-- `clamp(x, lo, hi)` (R17): a NaN passes through unchanged. -/
def F32.clamp (x lo hi : F32) : F32 := if F32.gt x hi then hi else if F32.lt x lo then lo else x

end Sys2Proof.Machine
end

