-- ==== Sys2Proof/Machine/Params.lean ====
section
/-! DEFINITION. The derived parameters of R8, the constraints of R10, which a configuration must obey to
have a meaning (log 10), and what the PULSE setting keeps (R130). -/

namespace Sys2Proof

/-- `CK_WIDTH` in bits (R8). -/
def Config.ckBits (c : Config) : Nat :=
  match c.ckWidth with
  | .w16 => 16
  | .w32 => 32

/-- `CKB`, the bytes of a footer: `CK_WIDTH / 8` (R8, R82). -/
def Config.ckb (c : Config) : Nat :=
  match c.ckWidth with
  | .w16 => 2
  | .w32 => 4

/-- The low CK_WIDTH bits of a word: `v[CK_WIDTH-1:0]`. -/
def Config.ckTrunc (c : Config) (v : U32) : U32 :=
  match c.ckWidth with
  | .w16 => v &&& 0x0000FFFF#32
  | .w32 => v

/-- `MAX_SP`, the most setpoints a frame can carry: `(MAX_PAYLOAD - 6) div 4` (R8, R61). -/
def Config.maxSp (c : Config) : Nat := (c.maxPayload - 6) / 4

/-- All diagnostic codes of all identities (R10). -/
def Config.diagCodes (c : Config) : List Byte :=
  c.identities.flatMap fun id => [id.diagPing, id.diagSelftest, id.diagValue]

/-- The seven message type codes (R10, R65). -/
def Config.typeCodes (c : Config) : List Byte :=
  [c.mtPing, c.mtSelftest, c.mtReadvalue, c.mtSetcoeff, c.mtSetbatch, c.mtSleep, c.mtError]

/-- `ADDR` is injective, no address is `BROADCAST_ADDR`, the diagnostic codes are pairwise distinct and
none is an address or `BROADCAST_ADDR` (R10): in one list, no value twice. -/
def Config.codesDistinct (c : Config) : Bool :=
  decide (c.broadcastAddr :: (c.identities.map (·.addr) ++ c.diagCodes)).Nodup

/-- The seven message type codes are pairwise distinct (R10). -/
def Config.typesDistinct (c : Config) : Bool := decide c.typeCodes.Nodup

/-- The sizes of R10, and the u8 and u16 types R8 gives them. -/
def Config.sizesOk (c : Config) : Bool :=
  decide (12 ≤ c.maxPayload) && decide (c.maxPayload ≤ 65535) && decide (c.qdepth < 256) &&
    decide (c.poolSlots < 256) && decide (c.qdepth + 3 ≤ c.poolSlots)

/-- The binary32 constraints of R10. -/
def Config.floatsOk (c : Config) : Bool :=
  Machine.F32.finite c.tickHz && Machine.F32.gt c.tickHz 0 && Machine.F32.le 0 c.noise &&
    Machine.F32.gt c.maxStep 0 && Machine.F32.gt c.rawScale 0 && Machine.F32.finite c.calUpper

/-- The constraints the spec's types and rules give the parameters beside those of R10: the CRC
parameters have CK_WIDTH bits (R8), the strap table maps to identities (R8), and DRIVE_MAX bounds a value
that `trunc_i8` takes (R16, R31; log 10). -/
def Config.typesOk (c : Config) : Bool :=
  decide (c.ckTrunc c.ckPoly = c.ckPoly) && decide (c.ckTrunc c.ckInit = c.ckInit) &&
    decide (c.ckTrunc c.ckXorout = c.ckXorout) &&
    c.strapTable.all (fun row => decide (row.2 ∈ c.identities)) &&
    Machine.F32.le 0 c.driveMax && Machine.F32.le c.driveMax 0x42FE0000#32

/-- The configuration has a meaning (R10). -/
def Config.ok (c : Config) : Bool :=
  c.codesDistinct && c.typesDistinct && c.sizesOk && c.floatsOk && c.typesOk

/-- Whether the configuration has an operation; `answer` says that the operation is one through which a
set-coefficients request is received and answered. STRATEGY = PULSE is refused but for that answer (R130;
log 11). -/
def Config.keeps (c : Config) (answer : Bool) : Bool :=
  match c.strategy with
  | .pid => true
  | .pulse => answer

/-- `STRAP_TABLE(strap)`: `none` is Invalid (R8, R84). -/
def Config.identityOf (c : Config) (strap : BitVec 4) : Option Identity :=
  (c.strapTable.find? fun row => row.1 == strap).map (·.2)

end Sys2Proof
end

