-- ==== Sys2Proof/Machine/Crc.lean ====
section
/-! DEFINITION. The checksum function (R75, R76, R80, R81). The register is held unreflected, its CK_WIDTH
bits zero-extended to 32 (log 15). -/

namespace Sys2Proof.Machine

/-- `reflect_W` of a CK_WIDTH-bit value (R76). -/
def reflectW (c : Config) (v : U32) : U32 :=
  match c.ckWidth with
  | .w16 => (v.setWidth 16).reverse.setWidth 32
  | .w32 => v.reverse

/-- One of the eight shifts of CRCSTEP (R76). -/
def crcShift (c : Config) (acc : U32) : U32 :=
  if acc.getLsbD (c.ckBits - 1) then c.ckTrunc ((acc <<< 1) ^^^ c.ckPoly) else c.ckTrunc (acc <<< 1)

/-- `k` shifts. -/
def crcShifts (c : Config) : Nat → U32 → U32
  | 0, acc => acc
  | k + 1, acc => crcShifts c k (crcShift c acc)

/-- The byte as it enters the register: bit-reversed when CK_REFIN (R76). -/
def crcInput (c : Config) (b : Byte) : U32 :=
  (if c.ckRefin then b.reverse else b).setWidth 32 <<< (c.ckBits - 8)

/-- `CRCSTEP(acc, b)` (R76). -/
def crcStep (c : Config) (acc : U32) (b : Byte) : U32 := crcShifts c 8 (acc ^^^ crcInput c b)

/-- CRCSTEP over a byte sequence, index 0 first (R79, R81). -/
def crcMany (c : Config) (acc : U32) (bs : List Byte) : U32 := bs.foldl (crcStep c) acc

/-- The value `CK.VALUE` reads from a register (R80). -/
def crcValue (c : Config) (acc : U32) : U32 :=
  (if c.ckRefout then reflectW c acc else acc) ^^^ c.ckXorout

/-- `Checksum(s)` (R81). -/
def checksum (c : Config) (bs : List Byte) : U32 := crcValue c (crcMany c c.ckInit bs)

/-- A checksum as footer bytes: `bytes_le16` or `bytes_le32` (R56, R99). -/
def footerBytes (c : Config) (v : U32) : List Byte :=
  match c.ckWidth with
  | .w16 => [v.extractLsb' 0 8, v.extractLsb' 8 8]
  | .w32 => [v.extractLsb' 0 8, v.extractLsb' 8 8, v.extractLsb' 16 8, v.extractLsb' 24 8]

end Sys2Proof.Machine
end

