-- ==== Sys2Proof/Machine/State.lean ====
section
/-! DEFINITION. The state of the block (R23 to R33), plain data, its fault record (R142), the reasons a
step can stop, the output events (R14) and power-on reset (R155, R156). -/

namespace Sys2Proof.Machine

/-! ### Values of the registers -/

/-- `BLK.mode` (R23). -/
inductive Mode where
  | boot
  | run
  | halted
  deriving DecidableEq, Repr

/-- What a `Refused` fault records (R142). -/
inductive RefusedWhat where
  | bootAfterBoot
  | beforeBoot
  | pbufBounds
  deriving DecidableEq, Repr

/-- `BLK.fault_info` when it is not none (R23, R142): a fault of the BLOCK, recorded in its state. -/
inductive FaultInfo where
  | illegalOp (opcode : Byte)
  | refused (what : RefusedWhat)
  deriving DecidableEq, Repr

/-- `ID.self` (R26). -/
inductive SelfId where
  | unread
  | invalid
  | known (id : Identity)
  deriving DecidableEq, Repr

/-- `FS.state` (R27). -/
inductive FsState where
  | stopped
  | awaitAddr
  | hdrType
  | hdrSizeLo
  | hdrSizeHi
  | payload
  | footer
  | drain
  | halted
  deriving DecidableEq, Repr

/-- `FS.drain_kind` (R28). -/
inductive DrainKind where
  | drop
  | oversize
  deriving DecidableEq, Repr

/-- An output event (R14). -/
inductive Event where
  /-- `emit TX(s)` -/
  | tx (bytes : List Byte)
  /-- `emit DRIVE(v)`, `v` an i8 -/
  | drive (v : Byte)
  /-- `emit RX_RESTART` -/
  | rxRestart
  deriving DecidableEq, Repr

/-! ### Registers by unit -/

/-- Block registers (R23). -/
structure BlkRegs where
  mode : Mode
  fault : Bool
  faultInfo : Option FaultInfo
  deriving DecidableEq, Repr

/-- Frame synchronizer registers (R27, R28). `foot` holds CK_WIDTH bits, zero-extended (log 15). -/
structure FsRegs where
  state : FsState
  addr : Byte
  type : Byte
  size : U16
  count : U16
  foot : U32
  drainRem : U32
  drainKind : DrainKind
  bcast : Bool
  deriving DecidableEq, Repr

/-- Scheduler registers (R29, R30, R31). `drive` is an i8. -/
structure SchRegs where
  queue : List Batch
  next : Option Batch
  cur : Option Batch
  idx : U16
  rem : U16
  loops : U16
  target : U16
  tickPending : Bool
  renderActive : Bool
  drive : Byte
  deriving DecidableEq, Repr

/-- PID registers (R32). -/
structure PidRegs where
  kp : F32
  ki : F32
  kd : F32
  sp : F32
  lastErr : F32
  integ : F32
  deriving DecidableEq, Repr

/-- Render registers (R33). -/
structure RndRegs where
  pos : F32
  posValid : Bool
  sample : F32
  deriving DecidableEq, Repr

/-- The state of the block. -/
structure State where
  /-- the MODEL's: the parameters of R8; no step writes them (log 2) -/
  cfg : Config
  blk : BlkRegs
  /-- `CK.acc` (R24), CK_WIDTH bits zero-extended (log 15) -/
  ckAcc : U32
  /-- `ID.self` (R26) -/
  self : SelfId
  fs : FsRegs
  /-- `PBUF` (R38): the bytes that are not 0x00, addresses strictly rising -/
  pbuf : List Host.Cell
  sch : SchRegs
  pid : PidRegs
  rnd : RndRegs
  /-- the MODEL's: the commands the agents present, next one first (log 1) -/
  port : List Command
  /-- the result word `res` (R68): the last result returned (log 12) -/
  res : Option U32
  /-- the MODEL's: the output events emitted, oldest first (log 12) -/
  events : List Event
  /-- the MODEL's: how many draws `sample()` has made (log 4) -/
  draws : Nat
  deriving DecidableEq, Repr

/-! ### Why a step stops -/

/-- The reasons a step answers `fault`. (A fault that the BLOCK records is a next state: `State.raise`.) -/
inductive Fault where
  /-- Raised by every operation in mode HALTED, and by a step that finds nothing presented there: "no
  step: the block is stuck" (R140). Safe: the block has no further step. -/
  | halted
  /-- Raised by an access to PBUF at or past MAX_PAYLOAD, an address that does not exist (R38). Raised in
  no state a run reaches. Safe. -/
  | pbufOutside
  /-- Raised by a load of a setpoint the current batch does not have (R120). Raised in no state a run
  reaches. Safe. -/
  | setpointIndex
  /-- Raised by a reply of a board whose identity is Unread or Invalid (R99). Raised in no state a run
  reaches. Safe. -/
  | noIdentity
  deriving DecidableEq, Repr

/-- The reasons a step answers `refused`. -/
inductive Refusal where
  /-- Raised by exec for an instruction that has no meaning yet. Safe. -/
  | notModelled (mnemonic : String)
  /-- Raised by every operation of a machine whose configuration breaks R10: "refused by the model (it
  has no meaning)". Safe. -/
  | badConfig
  /-- Raised with STRATEGY = PULSE, a variant the spec does not define, by everything but the answer to
  set-coefficients: "refused" (R130; log 11). Safe. -/
  | pulseStrategy
  /-- Raised by a command that has fewer operand words than R72 gives it (log 9). Safe. -/
  | missingOperands
  deriving DecidableEq, Repr

/-! ### Reset -/

/-- The machine right after power-on reset (R155, R156), with parameters `c`. -/
def State.resetOf (c : Config) : State where
  cfg := c
  blk := { mode := .boot, fault := false, faultInfo := none }
  ckAcc := c.ckInit
  self := .unread
  fs :=
    { state := .stopped, addr := 0, type := 0, size := 0, count := 0, foot := 0, drainRem := 0
      drainKind := .drop, bcast := false }
  pbuf := []
  sch :=
    { queue := [], next := none, cur := none, idx := 0, rem := 0, loops := 0, target := 0
      tickPending := false, renderActive := false, drive := 0 }
  pid := { kp := 0, ki := 0, kd := 0, sp := 0, lastErr := 0, integ := 0 }
  rnd := { pos := 0, posValid := false, sample := 0 }
  port := []
  res := none
  events := []
  draws := 0

/-- The machine right after power-on reset (R156), in configuration EX (R9). -/
def State.reset : State := State.resetOf Config.ex

end Sys2Proof.Machine
end

