-- ==== Sys2Proof/Machine/Ops.lean ====
section
/-! DEFINITION. The operations every family shares: raising a fault (R141), the gates of configuration and
mode (R10, R130, R140, R144), PBUF (R38, R39), output events and replies (R14, R99, R100). There is no return
from a fault (R138). -/

namespace Sys2Proof.Machine

/-! ### Raising a fault -/

/-- `raise F(info)` (R141): the fault record and HALTED, nothing else. -/
def State.raise (s : State) (info : FaultInfo) : State :=
  { s with
    blk := { mode := .halted, fault := true, faultInfo := some info }
    fs := { s.fs with state := .halted } }

/-- The numeric code of a fault (R142). -/
def FaultInfo.code : FaultInfo → Nat
  | .illegalOp _ => 1
  | .refused _ => 2

/-- How an operation ends without its effect. -/
inductive Halt where
  /-- the operation raises a fault of the block (R141) -/
  | raise (info : FaultInfo)
  | fault (f : Fault)
  | refused (r : Refusal)
  deriving DecidableEq, Repr

/-- An operation's body: its result, or how it ends without it. -/
abbrev Body (α : Type) := Except Halt α

/-- The outcome of an operation with this body in state `s`. A raised fault writes the fault record over
the state BEFORE the operation: nothing else of a faulting operation is written (R141). -/
def commit (s : State) (body : Body State) : Host.Outcome State Fault Refusal :=
  match body with
  | .ok t => .next t
  | .error (.raise info) => .next (s.raise info)
  | .error (.fault f) => .fault f
  | .error (.refused r) => .refused r

/-! ### The gates -/

/-- The gate of the configuration, before every operation: one that breaks R10 is refused, and with
STRATEGY = PULSE everything but the answer to set-coefficients is refused (R130; log 10, 11). -/
def configGate (c : Config) (answer : Bool) (run : Host.Outcome State Fault Refusal) :
    Host.Outcome State Fault Refusal :=
  if c.ok then
    if c.keeps answer then run else .refused .pulseStrategy
  else .refused .badConfig

/-- The port operations through which a set-coefficients request reaches its answer: BLK.BOOT, FS.START,
FS.RXBYTE for the frame of R104, and PID.SETCOEF for R125 (log 11). -/
def answersSetcoef (op : Byte) : Bool := op = 0x01 || op = 0x20 || op = 0x21 || op = 0x40

/-- The mode gate of R140 and the legality test of R143, in the order of R144, before the body of the port
operation with this opcode. An agent's operation that has no step leaves the state as it is: the offer
lapses (log 7). In HALTED no operation has a step (log 6). -/
def modeGate (op : Byte) (s : State) (body : Body State) : Host.Outcome State Fault Refusal :=
  match s.blk.mode with
  | .halted => .fault .halted
  | .boot =>
    match opClass op with
    | some .boot => commit s body
    | some .checksum => commit s body
    | some .receive => commit s body
    | some .agent => .next s
    | some .external => commit s (.error (.raise (.refused .beforeBoot)))
    | some .internal => commit s (.error (.raise (.refused .beforeBoot)))
    | none => commit s (.error (.raise (.illegalOp op)))
  | .run =>
    match opClass op with
    | some .internal =>
      if s.cfg.portInternal then commit s body else commit s (.error (.raise (.illegalOp op)))
    | none => commit s (.error (.raise (.illegalOp op)))
    | some .boot => commit s body
    | some .checksum => commit s body
    | some .receive => commit s body
    | some .agent => commit s body
    | some .external => commit s body

/-- The gates before the body of the port operation with this opcode. -/
def portGate (op : Byte) (s : State) (body : Body State) : Host.Outcome State Fault Refusal :=
  configGate s.cfg (answersSetcoef op) (modeGate op s body)

/-- The gate of a wire request or a diagnostic code: the service routine runs only in RUN (R158); before
boot the bytes are lost (R88), and in HALTED nothing has a step (R140). With STRATEGY = PULSE it is the
service that is refused (`pidOnly`), since FS.RXBYTE is kept. -/
def wireGate (s : State) (body : Body State) : Host.Outcome State Fault Refusal :=
  configGate s.cfg true
    (match s.blk.mode with
    | .halted => .fault .halted
    | .boot => .next s
    | .run => commit s body)

/-- A service or a reply that STRATEGY = PULSE does not keep (R130; log 11). -/
def pidOnly {α : Type} (s : State) (body : Body α) : Body α :=
  if s.cfg.keeps false then body else .error (.refused .pulseStrategy)

/-- A command word whose opcode is not in the opcode map (R143). Its operand words are not read. -/
def execIllegal (op : Byte) (s : State) : Host.Outcome State Fault Refusal := portGate op s (.ok s)

/-- A command that lacks operand words (log 9): the gate decides first, since it does not read them. -/
def execMissingOperands (op : Byte) (s : State) : Host.Outcome State Fault Refusal :=
  portGate op s (.error (.refused .missingOperands))

/-- A step that finds nothing presented: the block waits (log 8). -/
def execIdle (s : State) : Host.Outcome State Fault Refusal :=
  configGate s.cfg false
    (match s.blk.mode with
    | .halted => .fault .halted
    | .boot => .next s
    | .run => .next s)

/-! ### PBUF -/

/-- What an unlisted address of PBUF reads as: its reset contents (R28, R156). -/
def Memory.unlisted : Byte := 0x00

/-- The byte at an address. -/
def Memory.read : List Host.Cell → Nat → Byte
  | [], _ => Memory.unlisted
  | (k, w) :: m, a => if a = k then w else Memory.read m a

/-- The memory with a byte written, in canonical form. -/
def Memory.write : List Host.Cell → Nat → Byte → List Host.Cell
  | [], a, v => if v = Memory.unlisted then [] else [(a, v)]
  | (k, w) :: m, a, v =>
    if a < k then if v = Memory.unlisted then (k, w) :: m else (a, v) :: (k, w) :: m
    else if a = k then if v = Memory.unlisted then m else (a, v) :: m
    else (k, w) :: Memory.write m a v

/-- The canonical form: addresses strictly rising from `lo` on, below `hi`, and no listed byte that an
unlisted address reads as. -/
def Memory.wfFrom (lo hi : Nat) : List Host.Cell → Bool
  | [] => true
  | (k, w) :: m =>
    decide (lo ≤ k) && decide (k < hi) && decide (w ≠ Memory.unlisted) && Memory.wfFrom (k + 1) hi m

/-- The canonical form of a memory of `size` bytes. -/
def Memory.wf (size : Nat) (m : List Host.Cell) : Bool := Memory.wfFrom 0 size m

/-- The bytes at `a .. a+n-1`. -/
def Memory.bytes (m : List Host.Cell) (a : Nat) : Nat → List Byte
  | 0 => []
  | n + 1 => Memory.read m a :: Memory.bytes m (a + 1) n

/-- `MemRead(a, n)` (R39): little-endian. Past FS.size it raises Refused(PBUF bounds) (R142). -/
def memRead (s : State) (a n : Nat) : Body Nat :=
  if s.fs.size.toNat < a + n then .error (.raise (.refused .pbufBounds))
  else if s.cfg.maxPayload < a + n then .error (.fault .pbufOutside)
  else .ok (leValue (Memory.bytes s.pbuf a n))

/-- `MemRead(a, 2)`. -/
def memRead16 (s : State) (a : Nat) : Body U16 := do
  let v ← memRead s a 2
  .ok (BitVec.ofNat 16 v)

/-- `MemRead(a, 4)`. -/
def memRead32 (s : State) (a : Nat) : Body U32 := do
  let v ← memRead s a 4
  .ok (BitVec.ofNat 32 v)

/-- `MemWrite(a, 1, v)` (R39). -/
def memWrite (s : State) (a : Nat) (v : Byte) : Body State :=
  if a < s.cfg.maxPayload then .ok { s with pbuf := Memory.write s.pbuf a v }
  else .error (.fault .pbufOutside)

/-- `PBUF[0 .. FS.size)`, the payload of the frame. -/
def framePayload (s : State) : Body (List Byte) :=
  if s.cfg.maxPayload < s.fs.size.toNat then .error (.fault .pbufOutside)
  else .ok (Memory.bytes s.pbuf 0 s.fs.size.toNat)

/-! ### Output ports -/

/-- An output event (R14). -/
def State.emit (s : State) (e : Event) : State := { s with events := s.events ++ [e] }

/-- The result word of an operation (R68, R69). -/
def State.setRes (s : State) (v : U32) : State := { s with res := some v }

/-- `sample()`: a fresh draw from the sensor port, a free value (R14, R37; log 4). -/
def State.sensorDraw (s : State) : F32 := Config.sensorSample s.draws

/-- The state after a draw. -/
def State.countDraw (s : State) : State := { s with draws := s.draws + 1 }

/-! ### Replies -/

/-- `MakeFrame(t, p)` of a board at address `addr` (R99). -/
def makeFrame (c : Config) (addr t : Byte) (p : List Byte) : List Byte :=
  let h := addr :: t :: (bytesLe16 (BitVec.ofNat 16 p.length) ++ p)
  h ++ footerBytes c (checksum c h)

/-- `reply(t, p)` (R99): a broadcast request is never answered. -/
def reply (t : Byte) (p : List Byte) (s : State) : Body State :=
  if s.fs.bcast then .ok s
  else
    match s.self with
    | .known id => .ok (s.emit (.tx (makeFrame s.cfg id.addr t p)))
    | .unread => .error (.fault .noIdentity)
    | .invalid => .error (.fault .noIdentity)

/-- `reply_error(code)` (R100). -/
def replyError (code : U16) (s : State) : Body State := reply s.cfg.mtError (bytesLe16 code) s

end Sys2Proof.Machine
end

