-- ==== Sys2Proof/Machine/Checksum.lean ====
section
/-! DEFINITION. The checksum calculator operations (R77 to R80). -/

namespace Sys2Proof.Machine

/-- `CK.RESET` (R77). -/
def execCkReset (s : State) : Host.Outcome State Fault Refusal :=
  portGate 0x10 s (.ok { s with ckAcc := s.cfg.ckInit })

/-- `CK.UPDATE b` (R78). -/
def execCkUpdate (b : Byte) (s : State) : Host.Outcome State Fault Refusal :=
  portGate 0x11 s (.ok { s with ckAcc := crcStep s.cfg s.ckAcc b })

/-- `CK.UPDATE_MANY s` (R79). -/
def execCkUpdateMany (bs : List Byte) (s : State) : Host.Outcome State Fault Refusal :=
  portGate 0x12 s (.ok { s with ckAcc := crcMany s.cfg s.ckAcc bs })

/-- `CK.VALUE` (R80). -/
def execCkValue (s : State) : Host.Outcome State Fault Refusal :=
  portGate 0x13 s (.ok (s.setRes (crcValue s.cfg s.ckAcc)))

end Sys2Proof.Machine
end

