-- ==== Sys2Proof/Machine/Float.lean ====
section
/-! DEFINITION. Binary32 arithmetic with round to nearest even (R15, R16; log 18). A finite value is a whole
number of units of 2^-149, so every result is a fraction of such units, computed exactly and rounded
once. -/

namespace Sys2Proof.Machine

/-- The exponent, above that of the subnormals, of a magnitude with `q` whole units. -/
def F32.scaleOf (q : Nat) : Nat := Nat.log2 q - 23

/-- Round to nearest, ties to even, of the quotient `num / den`. -/
def F32.roundQuotient (num den : Nat) : Nat :=
  let q := num / den
  let r := num % den
  if den < 2 * r ∨ (2 * r = den ∧ q % 2 = 1) then q + 1 else q

/-- The binary32 value nearest to `num / den` units of 2^-149 with this sign; past the largest finite
value, an infinity. A significand that rounds up to 2^24 carries into the exponent field by itself. -/
def F32.round (s : Bool) (num den : Nat) : F32 :=
  let e := F32.scaleOf (num / den)
  let m := e * 2 ^ 23 + F32.roundQuotient num (den * 2 ^ e)
  F32.ofMagnitude s (min m (255 * 2 ^ 23))

/-- A NaN result: its sign and fraction are free values (log 5). -/
def F32.nanOf (op : Config.FloatOp) (a b : F32) : F32 :=
  F32.ofMagnitude (Config.nanSign op a b)
    (255 * 2 ^ 23 + max 1 (Config.nanPayload op a b).toNat)

/-- An infinity. -/
def F32.inf (s : Bool) : F32 := F32.ofMagnitude s (255 * 2 ^ 23)

/-- A zero. -/
def F32.zero (s : Bool) : F32 := F32.ofMagnitude s 0

/-- The sum of two finite values; an exact zero sum is -0 only when both operands are negative. -/
def F32.addFinite (a b : F32) : F32 :=
  let x := F32.signedUnits a + F32.signedUnits b
  if x = 0 then F32.zero (F32.sign a && F32.sign b) else F32.round (decide (x < 0)) x.natAbs 1

/-- `a +f b` (R15). -/
def F32.add (a b : F32) : F32 :=
  if F32.isNaN a || F32.isNaN b then F32.nanOf .add a b
  else if F32.isInf a then
    if F32.isInf b && (F32.sign a != F32.sign b) then F32.nanOf .add a b else a
  else if F32.isInf b then b
  else F32.addFinite a b

/-- `a -f b` (R15): the sum with `b` negated. -/
def F32.sub (a b : F32) : F32 := F32.add a (F32.neg b)

/-- `a *f b` (R15). -/
def F32.mul (a b : F32) : F32 :=
  let s := F32.sign a != F32.sign b
  if F32.isNaN a || F32.isNaN b then F32.nanOf .mul a b
  else if F32.isInf a || F32.isInf b then
    if F32.magnitude a = 0 ∨ F32.magnitude b = 0 then F32.nanOf .mul a b else F32.inf s
  else F32.round s (F32.units a * F32.units b) (2 ^ 149)

/-- `a /f b` (R15). -/
def F32.div (a b : F32) : F32 :=
  let s := F32.sign a != F32.sign b
  if F32.isNaN a || F32.isNaN b then F32.nanOf .div a b
  else if F32.isInf a then if F32.isInf b then F32.nanOf .div a b else F32.inf s
  else if F32.isInf b then F32.zero s
  else if F32.magnitude b = 0 then
    if F32.magnitude a = 0 then F32.nanOf .div a b else F32.inf s
  else F32.round s (F32.units a * 2 ^ 149) (F32.units b)

/-- `f32(n)` (R15). -/
def F32.ofNat (n : Nat) : F32 := F32.round false (n * 2 ^ 149) 1

/-- `trunc_i8(x)` (R16): the integer part, rounded toward zero, as an i8. -/
def F32.truncI8 (x : F32) : Byte := BitVec.ofInt 8 ((F32.signedUnits x).tdiv (2 ^ 149))

end Sys2Proof.Machine
end

