-- ==== Sys2Proof/Machine/Pid.lean ====
section
/-! DEFINITION. The PID position controller (R125 to R127). -/

namespace Sys2Proof.Machine

/-- The stored derivative coefficient (R125). -/
def scaledKd (c : Config) (kd : F32) : F32 :=
  match c.kdMode with
  | .mul => F32.mul kd c.tickHz
  | .div => F32.div kd c.tickHz

/-- The PID registers with a coefficient set loaded (R125). -/
def loadCoefficients (c : Config) (kp ki kd : F32) (p : PidRegs) : PidRegs :=
  { p with kp := kp, ki := F32.div ki c.tickHz, kd := scaledKd c kd }

/-- `PID.SETCOEF kp, ki, kd`: the state after it and its i16 status (R125). -/
def setCoefficients (kp ki kd : F32) (s : State) : State × U16 :=
  match s.cfg.strategy with
  | .pid => ({ s with pid := loadCoefficients s.cfg kp ki kd s.pid }, 0)
  | .pulse => (s, s.cfg.errNotPid)

/-- The current setpoint, reset to +0.0 when it is not finite (R126). -/
def guardedSetpoint (sp : F32) : F32 := if F32.finite sp then sp else 0

/-- The rate-limited step from setpoint `sp` toward `t` (R126). -/
def setpointStep (c : Config) (t sp : F32) : F32 :=
  let d := F32.sub t sp
  F32.clamp (if F32.isNaN d then 0 else d) (F32.neg c.maxStep) c.maxStep

/-- The setpoint `PID.SETSP t` leaves and returns (R126). -/
def acceptedSetpoint (c : Config) (t sp : F32) : F32 :=
  F32.add (guardedSetpoint sp) (setpointStep c t (guardedSetpoint sp))

/-- `PID.SETSP t` on the PID registers (R126). -/
def setSetpoint (c : Config) (t : F32) (p : PidRegs) : PidRegs :=
  { p with sp := acceptedSetpoint c t p.sp }

/-- A value reset to +0.0 when it is not finite, then clamped to the drive range (R127). -/
def guardedDrive (c : Config) (x : F32) : F32 :=
  F32.clamp (if F32.finite x then x else 0) (F32.neg c.driveMax) c.driveMax

/-- The error of `PID.UPDATE pos` (R127). -/
def pidError (pos : F32) (p : PidRegs) : F32 := F32.sub p.sp pos

/-- The integrator after `PID.UPDATE pos` (R127). -/
def pidIntegrator (c : Config) (pos : F32) (p : PidRegs) : F32 :=
  guardedDrive c (F32.add p.integ (pidError pos p))

/-- The drive value `PID.UPDATE pos` returns: `((P + I) + D)`, guarded (R127, D54). -/
def pidOutput (c : Config) (pos : F32) (p : PidRegs) : F32 :=
  guardedDrive c
    (F32.add
      (F32.add (F32.mul p.kp (pidError pos p)) (F32.mul p.ki (pidIntegrator c pos p)))
      (F32.mul p.kd (F32.sub (pidError pos p) p.lastErr)))

/-- The PID registers after `PID.UPDATE pos` (R127). -/
def pidAfterUpdate (c : Config) (pos : F32) (p : PidRegs) : PidRegs :=
  { p with integ := pidIntegrator c pos p, lastErr := pidError pos p }

/-- `PID.SETCOEF kp, ki, kd` on the port (R125). -/
def execPidSetcoef (kp ki kd : F32) (s : State) : Host.Outcome State Fault Refusal :=
  portGate 0x40 s
    (.ok ((setCoefficients kp ki kd s).1.setRes (resI16 (setCoefficients kp ki kd s).2)))

/-- `PID.SETSP t` on the port (R126). -/
def execPidSetsp (t : F32) (s : State) : Host.Outcome State Fault Refusal :=
  portGate 0x41 s
    (.ok ({ s with pid := setSetpoint s.cfg t s.pid }.setRes (setSetpoint s.cfg t s.pid).sp))

/-- `PID.UPDATE pos` on the port (R127). -/
def execPidUpdate (pos : F32) (s : State) : Host.Outcome State Fault Refusal :=
  portGate 0x42 s
    (.ok ({ s with pid := pidAfterUpdate s.cfg pos s.pid }.setRes (pidOutput s.cfg pos s.pid)))

end Sys2Proof.Machine
end

