-- ==== Sys2Proof/Machine/Render.lean ====
section
/-! DEFINITION. The render strategy, PID-position variant, the one the spec defines (R130 to R136). With
STRATEGY = PULSE the gate refuses every operation that runs a phase (log 11). -/

namespace Sys2Proof.Machine

/-- The sample passes the noise filter: first since reset, or not within NOISE of the cached position; a
NaN on either side passes (R132). -/
def filterTakes (c : Config) (p : F32) (r : RndRegs) : Bool :=
  !r.posValid || !F32.le (F32.abs (F32.sub p r.pos)) c.noise

/-- `RND.FILTER p` on the render registers (R132). -/
def filterSample (c : Config) (p : F32) (r : RndRegs) : RndRegs :=
  if filterTakes c p r then { r with pos := p, posValid := true } else r

/-- The `reset` phase (R133). -/
def renderReset (s : State) : State := { s with pid := { s.pid with sp := s.rnd.pos } }

/-- The `before-read` phase (R134). -/
def renderBefore (s : State) : State := { s with rnd := filterSample s.cfg s.rnd.sample s.rnd }

/-- The angle of a raw target, clamped to CAL_UPPER (R135). -/
def rawAngle (c : Config) (raw : U16) : F32 :=
  let a := F32.mul (F32.ofNat raw.toNat) c.rawScale
  if F32.gt a c.calUpper then c.calUpper else a

/-- The `compute` phase: the state after it and the i8 drive value (R135). -/
def renderCompute (raw : U16) (s : State) : State × Byte :=
  let p := setSetpoint s.cfg (rawAngle s.cfg raw) s.pid
  ({ s with pid := pidAfterUpdate s.cfg s.rnd.pos p }, F32.truncI8 (pidOutput s.cfg s.rnd.pos p))

/-- The `compute` phase with its drive value as the result word (R69, R135). -/
def computeWithResult (raw : U16) (s : State) : State :=
  (renderCompute raw s).1.setRes (resI8 (renderCompute raw s).2)

/-- The `after-write` phase: no effect (R136). -/
def renderAfter (s : State) : State := s

/-- `RND.FILTER p` on the port (R132). -/
def execRndFilter (p : F32) (s : State) : Host.Outcome State Fault Refusal :=
  portGate 0x4C s (.ok { s with rnd := filterSample s.cfg p s.rnd })

/-- `RND.RESET` on the port (R133). -/
def execRndReset (s : State) : Host.Outcome State Fault Refusal := portGate 0x48 s (.ok (renderReset s))

/-- `RND.BEFORE` on the port (R134). -/
def execRndBefore (s : State) : Host.Outcome State Fault Refusal := portGate 0x49 s (.ok (renderBefore s))

/-- `RND.COMPUTE raw` on the port (R135). -/
def execRndCompute (raw : U16) (s : State) : Host.Outcome State Fault Refusal :=
  portGate 0x4A s (.ok (computeWithResult raw s))

/-- `RND.AFTER` on the port (R136). -/
def execRndAfter (s : State) : Host.Outcome State Fault Refusal := portGate 0x4B s (.ok (renderAfter s))

end Sys2Proof.Machine
end

