-- ==== Sys2Proof/Machine/Scheduler.lean ====
section
/-! DEFINITION. The setpoint scheduler: the tick signal, the eight steps of a tick, and the queue
operations (R110 to R123). -/

namespace Sys2Proof.Machine

/-! ### The tick (R111) -/

/-- Step 1, sample (R112). -/
def tickSample (p : F32) (s : State) : State :=
  { s with rnd := filterSample s.cfg p { s.rnd with sample := p } }

/-- Step 2, fetch (R113). -/
def tickFetch (r : SchRegs) : SchRegs :=
  match r.next, r.queue with
  | none, b :: q => { r with next := some b, queue := q }
  | none, [] => r
  | some _, _ => r

/-- `max(duration, 1)` (R120). -/
def playTicks (duration : U16) : U16 := if duration = 0 then 1 else duration

/-- `load(i)` of batch `b` (R120). -/
def loadSetpoint (b : Batch) (i : Nat) (r : SchRegs) : Body SchRegs :=
  match b.sp[i]? with
  | some x => .ok { r with rem := playTicks x.duration, target := x.target }
  | none => .error (.fault .setpointIndex)

/-- The batch in the next slot becomes current (R114). -/
def activate (b : Batch) (r : SchRegs) : Body SchRegs :=
  let r' := { r with cur := some b, next := none, loops := b.loop, idx := 0 }
  if b.count = 0 then .ok r' else loadSetpoint b 0 r'

/-- Step 3, delay and activation (R114): zero is tested before the decrement. -/
def tickActivate (r : SchRegs) : Body SchRegs :=
  match r.next with
  | none => .ok r
  | some b =>
    if b.delay = 0 then activate b r
    else .ok { r with next := some { b with delay := b.delay - 1 } }

/-- Step 4, empty batch (R115). -/
def tickDropEmpty (r : SchRegs) : SchRegs :=
  match r.cur with
  | none => r
  | some b => if b.count = 0 then { r with cur := none } else r

/-- Step 5, idle (R116): zero drive, one DRIVE event, the strategy inactive. -/
def tickIdle (s : State) : State :=
  { s with sch := { s.sch with drive := 0, renderActive := false } }.emit (.drive 0)

/-- Step 6 when the loop budget is spent (R117): the batch is freed and no DRIVE is emitted. -/
def tickExhausted (s : State) : State := { s with sch := { s.sch with cur := none } }

/-- The `reset` phase on (re)activation (R118). -/
def tickReactivate (s : State) : State :=
  if s.sch.renderActive then s
  else { renderReset s with sch := { s.sch with renderActive := true } }

/-- Step 7, render (R118). -/
def tickRender (s : State) : State :=
  let t := renderBefore (tickReactivate s)
  let r := renderCompute t.sch.target t
  renderAfter ({ r.1 with sch := { r.1.sch with drive := r.2 } }.emit (.drive r.2))

/-- The loop budget after a pass over batch: infinite stays, finite loses one (R119). -/
def loopsAfterPass (c : Config) (loops : U16) : U16 :=
  if loops = c.loopInf then loops else loops - 1

/-- Step 8, advance, in batch `b` (R119). -/
def tickAdvance (c : Config) (b : Batch) (r : SchRegs) : Body SchRegs :=
  if r.rem - 1 = 0 then
    if (r.idx + 1).toNat = b.count then
      loadSetpoint b 0 { r with rem := 0, idx := 0, loops := loopsAfterPass c r.loops }
    else loadSetpoint b (r.idx + 1).toNat { r with rem := 0, idx := r.idx + 1 }
  else .ok { r with rem := r.rem - 1 }

/-- Steps 1 to 4, with the pending tick taken (R111 to R115). -/
def tickPrepare (p : F32) (s : State) : Body State := do
  let s1 := tickSample p { s with sch := { s.sch with tickPending := false } }
  let r ← tickActivate (tickFetch s1.sch)
  .ok { s1 with sch := tickDropEmpty r }

/-- Steps 5 to 8 (R116 to R119). -/
def tickPlay (s : State) : Body State :=
  match s.sch.cur with
  | none => .ok (tickIdle s)
  | some b =>
    if s.sch.loops = 0 then .ok (tickExhausted s)
    else do
      let t := tickRender s
      let r ← tickAdvance t.cfg b t.sch
      .ok { t with sch := r }

/-- One tick of the scheduler, all eight steps (R111). -/
def tick (p : F32) (s : State) : Body State := do
  let t ← tickPrepare p s
  tickPlay t

/-- A tick, when one is pending; with none pending it has no step, and the offer lapses (R111; log 7). -/
def pendingTick (p : F32) (s : State) : Body State := if s.sch.tickPending then tick p s else .ok s

/-! ### Queue operations -/

/-- The queue and the i16 status after offering a batch (R121). -/
def enqueueBatch (c : Config) (b : Batch) (q : List Batch) : List Batch × U16 :=
  if c.maxSp < b.count then (q, c.errBadSize)
  else if q.length < c.qdepth then (q ++ [b], 0)
  else (q, c.errQueueFull)

/-- The state after offering a batch (R121). -/
def enqueue (b : Batch) (s : State) : State :=
  { s with sch := { s.sch with queue := (enqueueBatch s.cfg b s.sch.queue).1 } }

/-- The status of offering a batch (R121). -/
def enqueueStatus (b : Batch) (s : State) : U16 := (enqueueBatch s.cfg b s.sch.queue).2

/-- `STOP_BATCH` (R122). -/
def stopBatch : Batch := { delay := 0, loop := 1, sp := [{ duration := 0, target := 0 }] }

/-- `SCH.STOP` (R122). -/
def stopMotion (s : State) : State :=
  { s with sch := { s.sch with queue := [], next := some stopBatch } }

/-! ### Port operations -/

/-- `SCH.TIMER` (R110). -/
def execSchTimer (s : State) : Host.Outcome State Fault Refusal :=
  portGate 0x30 s (.ok { s with sch := { s.sch with tickPending := true } })

/-- `SCH.TICK p` (R111). -/
def execSchTick (p : F32) (s : State) : Host.Outcome State Fault Refusal :=
  portGate 0x31 s (pendingTick p s)

/-- `SCH.ENQUEUE B` on the port (R121). -/
def execSchEnqueue (b : Batch) (s : State) : Host.Outcome State Fault Refusal :=
  portGate 0x32 s (.ok ((enqueue b s).setRes (resI16 (enqueueStatus b s))))

/-- `SCH.STOP` on the port (R122). -/
def execSchStop (s : State) : Host.Outcome State Fault Refusal :=
  portGate 0x33 s (.ok (stopMotion s))

/-- `SCH.CURPOS` (R123). -/
def execSchCurpos (s : State) : Host.Outcome State Fault Refusal :=
  portGate 0x34 s (.ok (s.setRes s.rnd.pos))

end Sys2Proof.Machine
end

