-- ==== Sys2Proof/Machine/Service.lean ====
section
/-! DEFINITION. The service routine: one body per message type (R98 to R107) and per diagnostic code (R108),
and the meanings of the WIRE-TYPE and DIAG-BYTE rows. -/

namespace Sys2Proof.Machine

/-! ### Message types: set-coefficients is the one service the PULSE setting keeps (R130; log 11) -/

/-- Ping (R101). -/
def servePing (s : State) : Body State := pidOnly s (reply s.cfg.mtPing [] s)

/-- Self-test (R102): the status of the enqueue is ignored. -/
def serveSelftest (s : State) : Body State :=
  pidOnly s (reply s.cfg.mtSelftest s.cfg.textSelftest (enqueue s.cfg.selftestBatch s))

/-- Read value (R103): a fresh draw, not filtered. -/
def serveReadvalue (s : State) : Body State :=
  pidOnly s (reply s.cfg.mtReadvalue (Config.textValue s.sensorDraw) s.countDraw)

/-- The reply to set-coefficients with this status (R104). -/
def replyToSetcoeff (status : U16) (s : State) : Body State :=
  if status = s.cfg.errNotPid then replyError s.cfg.errNotPid s else reply s.cfg.mtSetcoeff [] s

/-- Set coefficients (R104): the size check comes before the strategy check. -/
def serveSetcoeff (s : State) : Body State :=
  if s.fs.size ≠ 12 then replyError s.cfg.errBadSize s
  else do
    let kp ← memRead32 s 0
    let ki ← memRead32 s 4
    let kd ← memRead32 s 8
    replyToSetcoeff (setCoefficients kp ki kd s).2 (setCoefficients kp ki kd s).1

/-- `n` setpoints of a set-setpoint-batch payload, from offset `a` on (R61). -/
def readSetpoints (s : State) (a : Nat) : Nat → Body (List Setpoint)
  | 0 => .ok []
  | n + 1 => do
    let d ← memRead16 s a
    let t ← memRead16 s (a + 2)
    let rest ← readSetpoints s (a + 4) n
    .ok ({ duration := d, target := t } :: rest)

/-- The batch of a set-setpoint-batch payload with `n` setpoints (R61, R105). -/
def readBatch (s : State) (n : Nat) : Body Batch := do
  let delay ← memRead16 s 0
  let loop ← memRead16 s 2
  let sp ← readSetpoints s 6 n
  .ok { delay := delay, loop := loop, sp := sp }

/-- The reply to set-setpoint-batch with this status (R105). -/
def replyToSetbatch (status : U16) (s : State) : Body State :=
  if status = s.cfg.errQueueFull then replyError s.cfg.errQueueFull s
  else reply s.cfg.mtSetbatch [] s

/-- Set setpoint batch (R105): only the shape of the payload is checked. -/
def offerPayload (s : State) : Body State :=
  if s.fs.size.toNat < 6 then replyError s.cfg.errBadSize s
  else do
    let n ← memRead16 s 4
    if s.fs.size.toNat ≠ 6 + 4 * n.toNat then replyError s.cfg.errBadSize s
    else do
      let b ← readBatch s n.toNat
      replyToSetbatch (enqueueStatus b s) (enqueue b s)

/-- Set setpoint batch (R105). -/
def serveSetbatch (s : State) : Body State := pidOnly s (offerPayload s)

/-- Sleep / stop (R106). -/
def serveSleep (s : State) : Body State := pidOnly s (reply s.cfg.mtSleep [] (stopMotion s))

/-- Unknown type, `MT_ERROR` as a request included (R107). -/
def serveUnknown (s : State) : Body State := pidOnly s (replyError s.cfg.errUnknownType s)

/-- `service(FS.type, FS.size, FS.bcast)` (R98). -/
def service (s : State) : Body State :=
  if s.fs.type = s.cfg.mtPing then servePing s
  else if s.fs.type = s.cfg.mtSelftest then serveSelftest s
  else if s.fs.type = s.cfg.mtReadvalue then serveReadvalue s
  else if s.fs.type = s.cfg.mtSetcoeff then serveSetcoeff s
  else if s.fs.type = s.cfg.mtSetbatch then serveSetbatch s
  else if s.fs.type = s.cfg.mtSleep then serveSleep s
  else serveUnknown s

/-! ### Diagnostic codes (R108): replies are unframed -/

/-- `service_diag(PING)`. -/
def serveDiagPing (s : State) : Body State := pidOnly s (.ok (s.emit (.tx [s.cfg.ackByte])))

/-- `service_diag(SELFTEST)`. -/
def serveDiagSelftest (s : State) : Body State :=
  pidOnly s (.ok ((enqueue s.cfg.selftestBatch s).emit (.tx s.cfg.textSelftest)))

/-- `service_diag(READVALUE)`. -/
def serveDiagValue (s : State) : Body State :=
  pidOnly s (.ok (s.countDraw.emit (.tx (Config.textValue s.sensorDraw))))

/-! ### The meanings of the rows (log 13) -/

/-- A verified frame of type `MT_PING` (R101). -/
def execMtPing (s : State) : Host.Outcome State Fault Refusal := wireGate s (servePing s)

/-- A verified frame of type `MT_SELFTEST` (R102). -/
def execMtSelftest (s : State) : Host.Outcome State Fault Refusal := wireGate s (serveSelftest s)

/-- A verified frame of type `MT_READVALUE` (R103). -/
def execMtReadvalue (s : State) : Host.Outcome State Fault Refusal := wireGate s (serveReadvalue s)

/-- A verified frame of type `MT_SETCOEFF` (R104). -/
def execMtSetcoeff (s : State) : Host.Outcome State Fault Refusal := wireGate s (serveSetcoeff s)

/-- A verified frame of type `MT_SETBATCH` (R105). -/
def execMtSetbatch (s : State) : Host.Outcome State Fault Refusal := wireGate s (serveSetbatch s)

/-- A verified frame of type `MT_SLEEP` (R106). -/
def execMtSleep (s : State) : Host.Outcome State Fault Refusal := wireGate s (serveSleep s)

/-- A verified frame of type `MT_ERROR`: as a request, an unknown type (R67, R107). -/
def execMtError (s : State) : Host.Outcome State Fault Refusal := wireGate s (serveUnknown s)

/-- The board's own ping code (R108). -/
def execDiagPing (s : State) : Host.Outcome State Fault Refusal := wireGate s (serveDiagPing s)

/-- The board's own self-test code (R108). -/
def execDiagSelftest (s : State) : Host.Outcome State Fault Refusal :=
  wireGate s (serveDiagSelftest s)

/-- The board's own read-value code (R108). -/
def execDiagValue (s : State) : Host.Outcome State Fault Refusal := wireGate s (serveDiagValue s)

end Sys2Proof.Machine
end

