-- ==== Sys2Proof/Machine/FrameSync.lean ====
section
/-! DEFINITION. Boot, the address filter and the frame synchronizer (R84 to R96). -/

namespace Sys2Proof.Machine

/-! ### Identity (R84, R86) -/

/-- `BLK.BOOT strap` in mode BOOT (R84). -/
def bootIdentity (strap : BitVec 4) (s : State) : State :=
  match s.cfg.identityOf strap with
  | some id => { s with self := .known id, blk := { s.blk with mode := .run } }
  | none =>
    { s with
      self := .invalid
      blk := { s.blk with mode := .halted }
      fs := { s.fs with state := .halted } }

/-- The identity is read once: only in mode BOOT (R84, R162). -/
def bootOnce (strap : BitVec 4) (s : State) : Body State :=
  match s.blk.mode with
  | .boot => .ok (bootIdentity strap s)
  | .run => .error (.raise (.refused .bootAfterBoot))
  | .halted => .error (.raise (.refused .bootAfterBoot))

/-- The self-match test: an exact match, false when the identity is Unread or Invalid (R86). -/
def isSelf (s : State) (a : Byte) : Bool :=
  match s.self with
  | .known id => a == id.addr
  | .unread => false
  | .invalid => false

/-! ### One received byte, by the value of FS.state (R88 to R94) -/

/-- A byte in AWAIT_ADDR that is no diagnostic code of the board itself: one of another identity is ignored,
any other byte starts a header (R89). -/
def rxHeaderStart (b : Byte) (s : State) : State :=
  if b ∈ s.cfg.diagCodes then s else { s with fs := { s.fs with addr := b, state := .hdrType } }

/-- A byte in AWAIT_ADDR: a diagnostic code of the board itself is serviced (R89). -/
def rxAddress (b : Byte) (s : State) : Body State :=
  match s.self with
  | .known id =>
    if b = id.diagPing then serveDiagPing s
    else if b = id.diagSelftest then serveDiagSelftest s
    else if b = id.diagValue then serveDiagValue s
    else .ok (rxHeaderStart b s)
  | .unread => .ok (rxHeaderStart b s)
  | .invalid => .ok (rxHeaderStart b s)

/-- The bytes a frame has left to drain after its header (R91). -/
def drainLength (c : Config) (size : U16) : U32 := size.setWidth 32 + BitVec.ofNat 32 c.ckb

/-- Classification of a frame whose header is complete, on the registers of the frame synchronizer;
`toSelf` is `is_self(FS.addr)` (R91). -/
def classify (c : Config) (toSelf : Bool) (f : FsRegs) : FsRegs :=
  let f := { f with bcast := decide (f.addr = c.broadcastAddr) }
  if !(toSelf || f.bcast) then
    { f with drainKind := .drop, drainRem := drainLength c f.size, state := .drain }
  else if c.maxPayload < f.size.toNat then
    { f with drainKind := .oversize, drainRem := drainLength c f.size, state := .drain }
  else if f.size = 0 then { f with count := 0, foot := 0, state := .footer }
  else { f with count := 0, state := .payload }

/-- The last header byte, then classification (R90, R91). -/
def rxSizeHi (b : Byte) (s : State) : State :=
  { s with
    fs := classify s.cfg (isSelf s s.fs.addr)
      { s.fs with size := s.fs.size ||| (b.setWidth 16 <<< 8) } }

/-- The registers after a payload byte is counted (R92). -/
def countPayload (f : FsRegs) : FsRegs :=
  if f.count + 1 = f.size then { f with count := 0, foot := 0, state := .footer }
  else { f with count := f.count + 1 }

/-- Payload capture (R92). -/
def rxPayload (b : Byte) (s : State) : Body State := do
  let t ← memWrite s s.fs.count.toNat b
  .ok { t with fs := countPayload t.fs }

/-- The footer register with byte `b` at its place (R93). -/
def footerWith (c : Config) (b : Byte) (f : FsRegs) : U32 :=
  c.ckTrunc (f.foot ||| (b.setWidth 32 <<< (8 * f.count.toNat)))

/-- The registers after a footer byte (R93); after the last one the receiver waits for an address. -/
def countFooter (c : Config) (b : Byte) (f : FsRegs) : FsRegs :=
  { f with
    foot := footerWith c b f
    count := f.count + 1
    state := if (f.count + 1).toNat = c.ckb then .awaitAddr else f.state }

/-- The header bytes as they were received (R93). -/
def frameHeader (f : FsRegs) : List Byte := f.addr :: f.type :: bytesLe16 f.size

/-- The checksum verify of a complete frame, and its service (R93): a mismatch discards the frame. -/
def verifyFrame (s : State) : Body State := do
  let p ← framePayload s
  if checksum s.cfg (frameHeader s.fs ++ p) = s.fs.foot then service s else .ok s

/-- Footer read (R93). -/
def rxFooter (b : Byte) (s : State) : Body State :=
  let t := { s with fs := countFooter s.cfg b s.fs }
  if (s.fs.count + 1).toNat = s.cfg.ckb then verifyFrame t else .ok t

/-- The end of a drain: an oversize frame to this board alone is answered (R94). -/
def drainEnd (s : State) : Body State :=
  match s.fs.drainKind with
  | .drop => .ok s
  | .oversize => if s.fs.bcast then .ok s else pidOnly s (replyError s.cfg.errTooLarge s)

/-- A drained byte, neither stored nor checked (R94). -/
def rxDrain (s : State) : Body State :=
  if s.fs.drainRem - 1 = 0 then
    drainEnd { s with fs := { s.fs with drainRem := 0, state := .awaitAddr } }
  else .ok { s with fs := { s.fs with drainRem := s.fs.drainRem - 1 } }

/-- `FS.RXBYTE b`, one rule per value of FS.state (R88 to R94; R27: HALTED receives nothing). -/
def rxByte (b : Byte) (s : State) : Body State :=
  match s.fs.state with
  | .stopped => .ok s
  | .awaitAddr => rxAddress b s
  | .hdrType => .ok { s with fs := { s.fs with type := b, state := .hdrSizeLo } }
  | .hdrSizeLo => .ok { s with fs := { s.fs with size := b.setWidth 16, state := .hdrSizeHi } }
  | .hdrSizeHi => .ok (rxSizeHi b s)
  | .payload => rxPayload b s
  | .footer => rxFooter b s
  | .drain => rxDrain s
  | .halted => .ok s

/-! ### Start and timeout (R87, R95) -/

/-- The transceiver is started, once (R87). -/
def startReceiver (s : State) : State :=
  if s.fs.state = .stopped then { s with fs := { s.fs with state := .awaitAddr } } else s

/-- A frame is in progress, so a read timeout is armed (R95). -/
def timeoutArmed : FsState → Bool
  | .hdrType => true
  | .hdrSizeLo => true
  | .hdrSizeHi => true
  | .payload => true
  | .footer => true
  | .drain => true
  | .stopped => false
  | .awaitAddr => false
  | .halted => false

/-- An expired read timeout (R95): what was received of the frame is discarded. -/
def readTimeout (s : State) : State :=
  if timeoutArmed s.fs.state then
    { s with fs := { s.fs with state := .awaitAddr } }.emit .rxRestart
  else s

/-! ### Port operations -/

/-- `BLK.BOOT strap` (R84). -/
def execBlkBoot (strap : BitVec 4) (s : State) : Host.Outcome State Fault Refusal :=
  portGate 0x01 s (bootOnce strap s)

/-- `FS.IS_SELF a` (R86). -/
def execFsIsSelf (a : Byte) (s : State) : Host.Outcome State Fault Refusal :=
  portGate 0x23 s (.ok (s.setRes (resBool (isSelf s a))))

/-- `FS.START` (R87). -/
def execFsStart (s : State) : Host.Outcome State Fault Refusal :=
  portGate 0x20 s (.ok (startReceiver s))

/-- `FS.RXBYTE b` (R88 to R94). -/
def execFsRxbyte (b : Byte) (s : State) : Host.Outcome State Fault Refusal :=
  portGate 0x21 s (rxByte b s)

/-- `FS.TIMEOUT` (R95). -/
def execFsTimeout (s : State) : Host.Outcome State Fault Refusal :=
  portGate 0x22 s (.ok (readTimeout s))

end Sys2Proof.Machine
end

