-- ==== Sys2Proof/Machine/Dispatch.lean ====
section
/-! DEFINITION. One arm per instruction: each calls its meaning. -/

namespace Sys2Proof.Machine

def exec (i : Instr) (s : State) : Host.Outcome State Fault Refusal :=
  match i with
  | .blkBoot strap => Sys2Proof.Machine.execBlkBoot strap s
  | .ckReset => Sys2Proof.Machine.execCkReset s
  | .ckUpdate b => Sys2Proof.Machine.execCkUpdate b s
  | .ckUpdateMany bs => Sys2Proof.Machine.execCkUpdateMany bs s
  | .ckValue => Sys2Proof.Machine.execCkValue s
  | .fsStart => Sys2Proof.Machine.execFsStart s
  | .fsRxbyte b => Sys2Proof.Machine.execFsRxbyte b s
  | .fsTimeout => Sys2Proof.Machine.execFsTimeout s
  | .fsIsSelf a => Sys2Proof.Machine.execFsIsSelf a s
  | .schTimer => Sys2Proof.Machine.execSchTimer s
  | .schTick p => Sys2Proof.Machine.execSchTick p s
  | .schEnqueue batch => Sys2Proof.Machine.execSchEnqueue batch s
  | .schStop => Sys2Proof.Machine.execSchStop s
  | .schCurpos => Sys2Proof.Machine.execSchCurpos s
  | .pidSetcoef kp ki kd => Sys2Proof.Machine.execPidSetcoef kp ki kd s
  | .pidSetsp t => Sys2Proof.Machine.execPidSetsp t s
  | .pidUpdate pos => Sys2Proof.Machine.execPidUpdate pos s
  | .rndReset => Sys2Proof.Machine.execRndReset s
  | .rndBefore => Sys2Proof.Machine.execRndBefore s
  | .rndCompute raw => Sys2Proof.Machine.execRndCompute raw s
  | .rndAfter => Sys2Proof.Machine.execRndAfter s
  | .rndFilter p => Sys2Proof.Machine.execRndFilter p s
  | .mtPing => Sys2Proof.Machine.execMtPing s
  | .mtSelftest => Sys2Proof.Machine.execMtSelftest s
  | .mtReadvalue => Sys2Proof.Machine.execMtReadvalue s
  | .mtSetcoeff => Sys2Proof.Machine.execMtSetcoeff s
  | .mtSetbatch => Sys2Proof.Machine.execMtSetbatch s
  | .mtSleep => Sys2Proof.Machine.execMtSleep s
  | .mtError => Sys2Proof.Machine.execMtError s
  | .diagPing => Sys2Proof.Machine.execDiagPing s
  | .diagSelftest => Sys2Proof.Machine.execDiagSelftest s
  | .diagValue => Sys2Proof.Machine.execDiagValue s

end Sys2Proof.Machine
end

