-- ==== Sys2Proof/Machine/Fetch.lean ====
section
/-! DEFINITION. What a step runs next: the command at the head of the port (log 1), decoded; and how an
instruction is put there (log 26). -/

namespace Sys2Proof.Machine

/-- What a step finds on the port, with the state after the command is taken from it. -/
inductive Fetched where
  | idle
  | instr (i : Instr) (s : State)
  | illegal (op : Byte) (s : State)
  | missingOperands (op : Byte) (s : State)

/-- The state with these commands on the port. -/
def State.withPort (s : State) (cs : List Command) : State := { s with port := cs }

/-- Take the next command from the port and decode it. -/
def fetch (s : State) : Fetched :=
  match s.port with
  | [] => .idle
  | c :: rest =>
    match decodePort c with
    | .ok i => .instr i (s.withPort rest)
    | .error (.illegalOpcode op) => .illegal op (s.withPort rest)
    | .error (.missingOperands op) => .missingOperands op (s.withPort rest)

/-! ### Putting an instruction where the next step takes it -/

/-- The identity of the board, or the first of the configuration where it has none yet. -/
def identityOr (s : State) : Identity :=
  match s.self with
  | .known id => id
  | .unread => s.cfg.identities.headD Config.idA
  | .invalid => s.cfg.identities.headD Config.idA

/-- The command `FS.RXBYTE b`. -/
def rxCommand (b : Byte) : Command := { cmd := cmdWord 0x21 b, dat := [] }

/-- A booted board of this identity that waits for an address byte and is offered byte `b`. -/
def offerAddressByte (s : State) (id : Identity) (b : Byte) : State :=
  { s with
    blk := { s.blk with mode := .run }
    self := .known id
    fs := { s.fs with state := .awaitAddr }
    port := [rxCommand b] }

/-- The header of a frame of this type without payload, to this board. -/
def bareHeader (id : Identity) (t : Byte) : List Byte := [id.addr, t, 0, 0]

/-- A booted board of this identity that has received a frame of type `t` without payload but for the last
byte of its footer, and is offered that byte. -/
def offerFrameEnd (s : State) (id : Identity) (t : Byte) : State :=
  let v := checksum s.cfg (bareHeader id t)
  let last := (v >>> (8 * (s.cfg.ckb - 1))).setWidth 8
  { s with
    blk := { s.blk with mode := .run }
    self := .known id
    fs :=
      { s.fs with
        state := .footer, addr := id.addr, type := t, size := 0, bcast := false
        count := BitVec.ofNat 16 (s.cfg.ckb - 1)
        foot := v &&& ((1#32 <<< (8 * (s.cfg.ckb - 1))) - 1) }
    port := [rxCommand last] }

/-- The state whose next step runs the instruction that `code` carries. -/
def offerCode (s : State) : Code → State
  | .port c => s.withPort [c]
  | .wireType b => offerFrameEnd s (identityOr s) b
  | .diagByte b => offerAddressByte s (identityOr s) b

end Sys2Proof.Machine
end

