-- ==== Sys2Proof/Machine/Step.lean ====
section
/-! DEFINITION. One step of the machine: the next command presented on the port is taken and executed. -/

namespace Sys2Proof.Machine

/-- One step (R6: every operation is one atomic step; log 1). -/
def step (s : State) : Host.Outcome State Fault Refusal :=
  match fetch s with
  | .idle => execIdle s
  | .instr i t => exec i t
  | .illegal op t => execIllegal op t
  | .missingOperands op t => execMissingOperands op t

/-- `s` with the instruction of bits `w` where the next step takes it (log 26). -/
def State.withFetchWord (s : State) (nbits w : Nat) : State := offerCode s (tableCode s.cfg nbits w)

end Sys2Proof.Machine
end

