-- ==== Sys2Proof/Safety.lean ====
section
/-! DEFINITION. What a safe run is, in the terms statements use: the safety claim of R141, the invariant of
the states a run reaches, and short names for sequences of operations. -/

namespace Sys2Proof.Machine

/-! ### Outcomes -/

/-- The next state of an outcome, if it has one. -/
def nextState? : Host.Outcome State Fault Refusal → Option State
  | .next t => some t
  | .fault _ => none
  | .refused _ => none

/-- The safety claim of R141: `BLK.fault` is not set. -/
def State.safe (s : State) : Bool := !s.blk.fault

/-- Mode RUN (R140), in a configuration that obeys R10, of either strategy. -/
def State.inRun (s : State) : Prop := s.cfg.ok = true ∧ s.blk.mode = .run

/-- A block whose operations execute: mode RUN, with the one strategy the spec defines (R130). -/
def State.running (s : State) : Prop := s.inRun ∧ s.cfg.strategy = .pid

/-- A configuration the spec defines: it obeys R10, and its strategy is PID (R130). -/
def State.defined (s : State) : Prop := s.cfg.ok = true ∧ s.cfg.strategy = .pid

/-- A block whose checksum operations execute: mode BOOT or RUN (R77 to R80, R140). -/
def State.notHalted (s : State) : Prop := s.defined ∧ s.blk.mode ≠ .halted

/-- A block that accepts internal operations on its port (R70). -/
def State.internalPort (s : State) : Prop := s.running ∧ s.cfg.portInternal = true

/-! ### Sequences of operations -/

/-- `FS.RXBYTE` for each byte in order (R74, `FS.RXBYTES`); stops at the first that has no next state. -/
def receiveBytes : List Byte → State → Option State
  | [], s => some s
  | b :: bs, s =>
    match exec (.fsRxbyte b) s with
    | .next t => receiveBytes bs t
    | .fault _ => none
    | .refused _ => none

/-- `SCH.TIMER` and then `SCH.TICK p`, for each sample in order (R74, `TICK p`). -/
def timedTicks : List F32 → State → Option State
  | [], s => some s
  | p :: ps, s =>
    match exec .schTimer s with
    | .next t =>
      match exec (.schTick p) t with
      | .next u => timedTicks ps u
      | .fault _ => none
      | .refused _ => none
    | .fault _ => none
    | .refused _ => none

/-! ### Shapes the statements use -/

/-- The state after a reply of a board with this identity: a broadcast request is not answered (R99). -/
def answered (id : Identity) (t : Byte) (p : List Byte) (s : State) : State :=
  if s.fs.bcast then s else s.emit (.tx (makeFrame s.cfg id.addr t p))

/-- The set-coefficients payload of R60. -/
def coefficientsPayload (kp ki kd : F32) : List Byte := bytesLe32 kp ++ bytesLe32 ki ++ bytesLe32 kd

/-- The set-setpoint-batch payload of R61. -/
def batchPayload (b : Batch) : List Byte :=
  bytesLe16 b.delay ++ bytesLe16 b.loop ++ bytesLe16 (BitVec.ofNat 16 b.count) ++
    b.sp.flatMap fun x => bytesLe16 x.duration ++ bytesLe16 x.target

/-- The batch in the next slot after step 2 of a tick is `b`, and the queue left is `q` (R113). -/
def SlotHolds (r : SchRegs) (b : Batch) (q : List Batch) : Prop :=
  (r.next = some b ∧ q = r.queue) ∨ (r.next = none ∧ r.queue = b :: q)

/-- The scheduler registers after steps 2 and 3 of a tick (R113, R114): nothing to play next; a next batch
whose delay counts down; an activated batch with its first setpoint loaded; an activated batch without
setpoints. -/
inductive AfterSlots (r : SchRegs) : SchRegs → Prop where
  | nothing : r.next = none → r.queue = [] → AfterSlots r r
  | waits (b : Batch) (q : List Batch) : SlotHolds r b q → b.delay ≠ 0 →
      AfterSlots r { r with queue := q, next := some { b with delay := b.delay - 1 } }
  | activates (b : Batch) (q : List Batch) (x : Setpoint) : SlotHolds r b q → b.delay = 0 →
      b.sp[0]? = some x →
      AfterSlots r
        { r with
          queue := q, next := none, cur := some b, loops := b.loop, idx := 0
          rem := playTicks x.duration, target := x.target }
  | activatesEmpty (b : Batch) (q : List Batch) : SlotHolds r b q → b.delay = 0 → b.sp = [] →
      AfterSlots r { r with queue := q, next := none, cur := some b, loops := b.loop, idx := 0 }

/-- The ticks one pass over a batch takes: the sum of max(duration, 1) (R120, R124 item 1). -/
def passTicks (b : Batch) : Nat := (b.sp.map fun x => (playTicks x.duration).toNat).sum

/-- Batch `b` is in the next slot or at the head of the queue, its delay spent, nothing follows it, and it can
be played: the next tick makes it current, whatever is current now (R113, R114). -/
structure AboutToPlay (b : Batch) (s : State) : Prop where
  running : s.running
  slot : SlotHolds s.sch b []
  delay : b.delay = 0
  setpoints : b.sp ≠ [] ∧ b.count ≤ s.cfg.maxSp

/-- Batch `b` is being played and nothing follows it: it is current and the play position is in it (R114,
R119, R120). -/
structure Playing (b : Batch) (s : State) : Prop where
  running : s.running
  alone : s.sch.next = none ∧ s.sch.queue = []
  current : s.sch.cur = some b
  position : s.sch.idx.toNat < b.count ∧ b.count ≤ s.cfg.maxSp

/-! ### The invariant of reachable states -/

/-- PBUF is in canonical form within its MAX_PAYLOAD bytes (R38). -/
def MemoryInv (s : State) : Prop := Memory.wf s.cfg.maxPayload s.pbuf = true

/-- The checksum registers hold CK_WIDTH bits (R24, R28). -/
def ChecksumInv (s : State) : Prop :=
  s.cfg.ckTrunc s.ckAcc = s.ckAcc ∧ s.cfg.ckTrunc s.fs.foot = s.fs.foot

/-- What the life-cycle mode says of identity, receiver, tick signal and fault record (R84, R140, R141,
R157, R158). -/
structure ModeInv (s : State) : Prop where
  boot : s.blk.mode = .boot →
    s.self = .unread ∧ s.fs.state = .stopped ∧ s.sch.tickPending = false ∧ s.blk.fault = false
  run : s.blk.mode = .run →
    (∃ id ∈ s.cfg.identities, s.self = .known id) ∧ s.fs.state ≠ .halted ∧ s.blk.fault = false
  halted : s.blk.mode = .halted →
    s.fs.state = .halted ∧ (s.blk.fault = true ∨ s.self = .invalid)
  record : s.blk.fault = s.blk.faultInfo.isSome

/-- The frame in progress was accepted by the address filter and fits PBUF (R91, R92). -/
def AcceptedFrame (s : State) : Prop :=
  s.fs.bcast = decide (s.fs.addr = s.cfg.broadcastAddr) ∧
    (isSelf s s.fs.addr = true ∨ s.fs.bcast = true) ∧ s.fs.size.toNat ≤ s.cfg.maxPayload

/-- The working registers of the receiver, by its state (R91 to R94). -/
structure FrameInv (s : State) : Prop where
  payload : s.fs.state = .payload → AcceptedFrame s ∧ s.fs.count.toNat < s.fs.size.toNat
  footer : s.fs.state = .footer → AcceptedFrame s ∧ s.fs.count.toNat < s.cfg.ckb
  drain : s.fs.state = .drain →
    0 < s.fs.drainRem.toNat ∧ s.fs.drainRem.toNat ≤ s.fs.size.toNat + s.cfg.ckb
  oversize : s.fs.state = .drain → s.fs.drainKind = .oversize →
    s.fs.bcast = decide (s.fs.addr = s.cfg.broadcastAddr) ∧
      (isSelf s s.fs.addr = true ∨ s.fs.bcast = true) ∧ s.cfg.maxPayload < s.fs.size.toNat

/-- The current batch has setpoints, and the play position is in it (R114, R115, R119, R120). -/
def PlayInv (b : Batch) (r : SchRegs) : Prop :=
  r.rem ≠ 0 ∧ ∃ x, b.sp[r.idx.toNat]? = some x ∧ r.target = x.target

/-- The scheduler (R29, R30, R31, R61). -/
structure SchedulerInv (s : State) : Prop where
  depth : s.sch.queue.length ≤ s.cfg.qdepth
  queued : ∀ b ∈ s.sch.queue, b.count ≤ s.cfg.maxSp
  next : ∀ b, s.sch.next = some b → b.count ≤ s.cfg.maxSp
  current : ∀ b, s.sch.cur = some b → b.count ≤ s.cfg.maxSp ∧ PlayInv b s.sch
  drive : -127 ≤ s.sch.drive.toInt

/-- The value is within the drive range, so it is finite (R127, R128). -/
def inDriveRange (c : Config) (x : F32) : Prop :=
  F32.le (F32.neg c.driveMax) x = true ∧ F32.le x c.driveMax = true

/-- The integrator is within its bounds (R128 item 1). -/
def PidInv (s : State) : Prop := inDriveRange s.cfg s.pid.integ

/-- The invariant every run from reset keeps. -/
structure Inv (s : State) : Prop where
  config : s.cfg.ok = true
  memory : MemoryInv s
  checksum : ChecksumInv s
  mode : ModeInv s
  frame : FrameInv s
  scheduler : SchedulerInv s
  pid : PidInv s

end Sys2Proof.Machine
end

