-- ==== Sys2Proof/Certificates/Slice0/Obligations.lean ====
section
/-! DEFINITION. The statements for the provers. Each docstring names the rule it formalises; where a
statement rests on a choice of the model it says so and names the log entry. -/

open Sys2Proof Sys2Proof.Machine

/-! ### Reset, step, encoding -/

/-- R155, R156: every piece of state at its reset value, in configuration EX. -/
def Obligations.ResetValues : Prop :=
  State.reset.blk = { mode := .boot, fault := false, faultInfo := none } ∧
  State.reset.ckAcc = 0xFFFF ∧ State.reset.self = .unread ∧
  State.reset.fs =
    { state := .stopped, addr := 0x00, type := 0x00, size := 0x0000, count := 0x0000, foot := 0
      drainRem := 0, drainKind := .drop, bcast := false } ∧
  (∀ a, Memory.read State.reset.pbuf a = 0x00) ∧
  State.reset.sch =
    { queue := [], next := none, cur := none, idx := 0, rem := 0, loops := 0, target := 0
      tickPending := false, renderActive := false, drive := 0 } ∧
  State.reset.pid = { kp := 0, ki := 0, kd := 0, sp := 0, lastErr := 0, integ := 0 } ∧
  State.reset.rnd = { pos := 0, posValid := false, sample := 0 }

/-- The reset state meets the invariant that every step keeps. -/
def Obligations.ResetMeetsInvariant : Prop := Inv State.reset

/-- A step takes the next command of the port and executes what the decoder reads from it; a rejected
command goes to the gate; with nothing presented the block waits (the port is the model's form of the
presented operations, log 1, 8, 9). -/
def Obligations.StepRunsPresentedCommand : Prop :=
  (∀ (s : State) (c : Command) (rest : List Command) (i : Instr),
    s.port = c :: rest → decodePort c = .ok i → step s = exec i { s with port := rest }) ∧
  (∀ (s : State) (c : Command) (rest : List Command) (op : Byte),
    s.port = c :: rest → decodePort c = .error (.illegalOpcode op) →
      step s = execIllegal op { s with port := rest }) ∧
  (∀ (s : State) (c : Command) (rest : List Command) (op : Byte),
    s.port = c :: rest → decodePort c = .error (.missingOperands op) →
      step s = execMissingOperands op { s with port := rest }) ∧
  (∀ s : State, s.port = [] → step s = execIdle s)

/-- Words written out from R68, R69 and R70 (the programs P1, P3 and P4 and the vectors V-FS-B4 and
V-CK-24) decode to the operations they stand for. -/
def Obligations.SpecWordsDecode : Prop :=
  decodePort { cmd := 0x01F1, dat := [] } = .ok (.blkBoot 0x1) ∧
  decodePort { cmd := 0x1200, dat := [0x00000009, 0x34333231, 0x38373635, 0x00000039] } =
    .ok (.ckUpdateMany [0x31, 0x32, 0x33, 0x34, 0x35, 0x36, 0x37, 0x38, 0x39]) ∧
  decodePort { cmd := 0x1200, dat := [0] } = .ok (.ckUpdateMany []) ∧
  decodePort { cmd := 0x21C5, dat := [] } = .ok (.fsRxbyte 0xC5) ∧
  decodePort { cmd := 0x3200, dat := [0xFFFF0000, 0x00000001, 0x2710000A] } =
    .ok (.schEnqueue { delay := 0, loop := 0xFFFF, sp := [{ duration := 10, target := 10000 }] }) ∧
  decodePort { cmd := 0x4000, dat := [0x42C80000, 0x00000000, 0x00000000] } =
    .ok (.pidSetcoef 0x42C80000 0 0) ∧
  decodePort { cmd := 0xFF00, dat := [] } = .error (.illegalOpcode 0xFF) ∧
  decodeType Config.ex 0x05 = some .mtSetbatch ∧ decodeType Config.ex 0x7F = some .mtError ∧
  decodeDiag Config.idA 0x61 = some .diagPing ∧ decodeDiag Config.idB 0x61 = none

/-- Decode of encode is the instruction, for every well-formed instruction, with every operand, in every
configuration with a meaning and for every identity of it (R65, R59, R69, R70). -/
def Obligations.DecodeOfEncode : Prop :=
  ∀ (cfg : Config) (id : Identity) (i : Instr), cfg.ok = true → id ∈ cfg.identities →
    i.WellFormed = true → decode cfg id (encode cfg id i) = .ok i

/-- What the port decoder accepts is a well-formed instruction, and the instruction's own encoding has the
opcode of the command it was read from (R68, R69, R70; the count of a Batch is read from the second operand
word, log 28). -/
def Obligations.DecodedCommandWellFormed : Prop :=
  ∀ (cfg : Config) (id : Identity) (c : Command) (i : Instr), decodePort c = .ok i →
    i.WellFormed = true ∧
      ∃ c', encode cfg id i = .port c' ∧ cmdOpcode c'.cmd = cmdOpcode c.cmd ∧ decodePort c' = .ok i

/-- R143: IllegalOp for an opcode outside the map in BOOT and RUN, and for an internal opcode in RUN when
PORT_INTERNAL is false, whatever operand words follow; in HALTED there is no step. -/
def Obligations.IllegalOpcodeRaises : Prop :=
  ∀ (s : State) (c : Command) (rest : List Command), s.defined → s.port = c :: rest →
    (opClass (cmdOpcode c.cmd) = none → s.blk.mode ≠ .halted →
      step s = .next ({ s with port := rest }.raise (.illegalOp (cmdOpcode c.cmd)))) ∧
    (opClass (cmdOpcode c.cmd) = some .internal → s.cfg.portInternal = false → s.blk.mode = .run →
      step s = .next ({ s with port := rest }.raise (.illegalOp (cmdOpcode c.cmd)))) ∧
    (s.blk.mode = .halted → ∀ t, step s ≠ .next t)

/-! ### The mode gate, faults and refusals -/

/-- R140, R142: in BOOT every external or internal operation of the map but BLK.BOOT, the checksum
operations, FS.RXBYTE and FS.TIMEOUT raises Refused(before boot); operand words are not needed. -/
def Obligations.BeforeBootRefused : Prop :=
  ∀ (s : State) (c : Command) (rest : List Command), s.defined → s.blk.mode = .boot →
    s.port = c :: rest →
    (opClass (cmdOpcode c.cmd) = some .external ∨ opClass (cmdOpcode c.cmd) = some .internal) →
      step s = .next ({ s with port := rest }.raise (.refused .beforeBoot)) ∧
      ∀ i, decodePort c = .ok i → exec i s = .next (s.raise (.refused .beforeBoot))

/-- R140: in HALTED no operation has a step. The model's form of "no step: the block is stuck" is the
fault `halted` (log 6). -/
def Obligations.HaltedIsStuck : Prop :=
  ∀ s : State, s.defined → s.blk.mode = .halted →
    step s = .fault .halted ∧ ∀ i, exec i s = .fault .halted

/-- The model's choice (log 7): an offer of SCH.TIMER or SCH.TICK that has no step (in BOOT, R140; a tick
with none pending, R111) lapses: the state stays as it is. -/
def Obligations.DisabledAgentOfferLapses : Prop :=
  (∀ s : State, s.defined → s.blk.mode = .boot → exec .schTimer s = .next s) ∧
  (∀ (s : State) (p : F32), s.defined → s.blk.mode = .boot → exec (.schTick p) s = .next s) ∧
  (∀ (s : State) (p : F32), s.running → s.sch.tickPending = false → exec (.schTick p) s = .next s)

/-- R10: a configuration that breaks a constraint is refused: no operation of it has a meaning. -/
def Obligations.BrokenConfigurationRefused : Prop :=
  ∀ s : State, s.cfg.ok = false →
    step s = .refused .badConfig ∧ ∀ i, exec i s = .refused .badConfig

/-- R130: a configuration with STRATEGY = PULSE is refused. In every mode, every command whose opcode is not
one of BLK.BOOT, FS.START, FS.RXBYTE and PID.SETCOEF, a tick and the four render phases among them, and a step
with nothing presented; in RUN, every service but set-coefficients and the reply to an oversize frame. That
these four opcodes are the ones that lead to the answer ERR_NOT_PID and so run, as with PID, is the model's
reading (log 11). -/
def Obligations.PulseConfigurationRefused : Prop :=
  ∀ s : State, s.cfg.ok = true → s.cfg.strategy = .pulse →
    (s.port = [] → step s = .refused .pulseStrategy) ∧
    (∀ (c : Command) (rest : List Command), s.port = c :: rest →
      cmdOpcode c.cmd ∉ [0x01, 0x20, 0x21, 0x40] → step s = .refused .pulseStrategy) ∧
    (∀ (i : Instr) (id : Identity) (c : Command), encode s.cfg id i = .port c →
      cmdOpcode c.cmd ∉ [0x01, 0x20, 0x21, 0x40] → exec i s = .refused .pulseStrategy) ∧
    (s.blk.mode = .run → ∀ i ∈ [Instr.mtPing, .mtSelftest, .mtReadvalue, .mtSetbatch, .mtSleep, .mtError,
        .diagPing, .diagSelftest, .diagValue], exec i s = .refused .pulseStrategy) ∧
    (s.blk.mode = .run → s.fs.state = .drain → s.fs.drainRem = 1 → s.fs.drainKind = .oversize →
      s.fs.bcast = false → ∀ b, exec (.fsRxbyte b) s = .refused .pulseStrategy) ∧
    (s.blk.mode = .boot → ∀ strap id, s.cfg.identityOf strap = some id →
      exec (.blkBoot strap) s =
        .next { s with self := .known id, blk := { s.blk with mode := .run } }) ∧
    (s.blk.mode = .run → s.fs.state = .stopped →
      exec .fsStart s = .next { s with fs := { s.fs with state := .awaitAddr } })

/-- R141: an operation that sets BLK.fault writes the fault record, halts the block, and writes and emits
nothing else; and nothing leaves HALTED. -/
def Obligations.FaultWritesOnlyRecord : Prop :=
  ∀ (i : Instr) (s t : State), exec i s = .next t → s.blk.fault = false → t.blk.fault = true →
    (∃ info, t.blk = { mode := .halted, fault := true, faultInfo := some info } ∧
      t = { s with blk := t.blk, fs := { s.fs with state := .halted } }) ∧
    ∀ (j : Instr) (u : State), exec j t ≠ .next u

/-- R142, R39: an operation raises IllegalOp, with its own opcode, only as an internal operation in RUN without
PORT_INTERNAL, Refused(before boot) only in BOOT, Refused(BOOT after boot) only for BLK.BOOT in RUN, and
Refused(PBUF bounds) never. -/
def Obligations.FaultCauses : Prop :=
  ∀ (i : Instr) (s t : State), exec i s = .next t → s.blk.fault = false → t.blk.fault = true →
    (∃ op, t.blk.faultInfo = some (.illegalOp op) ∧
      (∀ id, ∃ c, encode s.cfg id i = .port c ∧ cmdOpcode c.cmd = op) ∧ opClass op = some .internal ∧
      s.blk.mode = .run ∧ s.cfg.portInternal = false) ∨
    (t.blk.faultInfo = some (.refused .beforeBoot) ∧ s.blk.mode = .boot) ∨
    (t.blk.faultInfo = some (.refused .bootAfterBoot) ∧ s.blk.mode = .run ∧ ∃ p, i = .blkBoot p)

/-! ### Invariants and whole-machine rules -/

/-- Every step keeps the invariant, from every state that meets it. -/
def Obligations.StepKeepsInvariant : Prop :=
  ∀ s t : State, Inv s → step s = .next t → Inv t

/-- From every state that meets the invariant, with STRATEGY = PID, a step that is not handed a command
without its operand words completes, unless the block is halted: none of the model's own faults (log 14) is
ever met. That a step with nothing presented, and an offer of SCH.TIMER or SCH.TICK that has no step, answer
a next state is the model's choice (log 8, log 7). -/
def Obligations.InvariantStepCompletes : Prop :=
  ∀ s : State, Inv s → s.cfg.strategy = .pid → s.blk.mode ≠ .halted →
    (∀ (c : Command) (rest : List Command) (op : Byte), s.port = c :: rest →
      decodePort c ≠ .error (.missingOperands op)) →
    ∃ t, step s = .next t

/-- R8, R22: the parameters are fixed: no step writes them. The second clause is the model's choice, its form
of presentation (log 1): a step takes the command at the head of the port, and no other. -/
def Obligations.ConfigurationNeverWritten : Prop :=
  ∀ s t : State, step s = .next t → t.cfg = s.cfg ∧ t.port = s.port.tail

/-- R162: the identity is read once. BLK.BOOT in RUN raises Refused(BOOT after boot), and no operation
changes the identity but BLK.BOOT in BOOT. -/
def Obligations.IdentityReadOnce : Prop :=
  (∀ (s : State) (strap : BitVec 4), s.running →
    exec (.blkBoot strap) s = .next (s.raise (.refused .bootAfterBoot))) ∧
  (∀ (i : Instr) (s t : State), exec i s = .next t → t.self ≠ s.self →
    s.blk.mode = .boot ∧ ∃ strap, i = .blkBoot strap)

/-- R23, R28: without a fault, only BLK.BOOT writes the block registers, and only BLK.BOOT, FS.START,
FS.RXBYTE and FS.TIMEOUT write those of the frame synchronizer. -/
def Obligations.ReceiverWriters : Prop :=
  ∀ (i : Instr) (s t : State), exec i s = .next t → t.blk.fault = false →
    (∀ strap, i ≠ .blkBoot strap) →
      t.blk = s.blk ∧ (i ≠ .fsStart → i ≠ .fsTimeout → (∀ b, i ≠ .fsRxbyte b) → t.fs = s.fs)

/-- R29 to R31: only SCH.TICK writes the play position, SCH.render_active and SCH.drive; SCH.tick_pending is
written by SCH.TIMER and SCH.TICK; the queue and the next slot only by SCH.TICK, SCH.ENQUEUE, SCH.STOP and
the requests that call the last two. -/
def Obligations.SchedulerWriters : Prop :=
  ∀ (i : Instr) (s t : State), exec i s = .next t → (∀ p, i ≠ .schTick p) →
    t.sch = { s.sch with
      queue := t.sch.queue, next := t.sch.next, tickPending := t.sch.tickPending } ∧
    (i ≠ .schTimer → t.sch.tickPending = s.sch.tickPending) ∧
    ((∀ b, i ≠ .schEnqueue b) → i ≠ .schStop → i ≠ .mtSelftest → i ≠ .mtSetbatch → i ≠ .mtSleep →
      i ≠ .diagSelftest → (∀ b, i ≠ .fsRxbyte b) →
        t.sch.queue = s.sch.queue ∧ t.sch.next = s.sch.next)

/-- R32, R129: the coefficient set is written only by PID.SETCOEF and the set-coefficients request; the
setpoint, last error and integrator only by SCH.TICK and the internal operations of the PID and render
units. -/
def Obligations.PidWriters : Prop :=
  ∀ (i : Instr) (s t : State), exec i s = .next t →
    ((∀ kp ki kd, i ≠ .pidSetcoef kp ki kd) → i ≠ .mtSetcoeff → (∀ b, i ≠ .fsRxbyte b) →
      t.pid.kp = s.pid.kp ∧ t.pid.ki = s.pid.ki ∧ t.pid.kd = s.pid.kd) ∧
    ((∀ p, i ≠ .schTick p) → (∀ x, i ≠ .pidSetsp x) → i ≠ .rndReset → (∀ r, i ≠ .rndCompute r) →
      t.pid.sp = s.pid.sp) ∧
    ((∀ p, i ≠ .schTick p) → (∀ x, i ≠ .pidUpdate x) → (∀ r, i ≠ .rndCompute r) →
      t.pid.lastErr = s.pid.lastErr ∧ t.pid.integ = s.pid.integ)

/-- R33: the render registers are written only by SCH.TICK, RND.FILTER and RND.BEFORE, RND.sample only
by SCH.TICK; only the read-value requests draw a sample, in the model's counter of draws (log 4). That an
operation without a result leaves the result word as it is is the model's choice (log 12). -/
def Obligations.RenderWriters : Prop :=
  ∀ (i : Instr) (s t : State), exec i s = .next t →
    ((∀ p, i ≠ .schTick p) → t.rnd.sample = s.rnd.sample ∧
      ((∀ p, i ≠ .rndFilter p) → i ≠ .rndBefore → t.rnd = s.rnd)) ∧
    (i ≠ .mtReadvalue → i ≠ .diagValue → (∀ b, i ≠ .fsRxbyte b) → t.draws = s.draws) ∧
    (i ≠ .ckValue → (∀ a, i ≠ .fsIsSelf a) → (∀ b, i ≠ .schEnqueue b) → i ≠ .schCurpos →
      (∀ kp ki kd, i ≠ .pidSetcoef kp ki kd) → (∀ x, i ≠ .pidSetsp x) → (∀ x, i ≠ .pidUpdate x) →
      (∀ r, i ≠ .rndCompute r) → t.res = s.res)

/-- R25: the checksums of frames use private instances: whatever CK.acc holds, every operation but the
checksum operations does the same to the rest of the state, and leaves CK.acc as it is. -/
def Obligations.FrameTrafficLeavesAccumulator : Prop :=
  ∀ (i : Instr) (s : State) (acc : U32), i ≠ .ckReset → (∀ b, i ≠ .ckUpdate b) →
    (∀ bs, i ≠ .ckUpdateMany bs) → i ≠ .ckValue →
    (∀ t, exec i s = .next t → t.ckAcc = s.ckAcc ∧
      exec i { s with ckAcc := acc } = .next { t with ckAcc := acc }) ∧
    (∀ f, exec i s = .fault f → exec i { s with ckAcc := acc } = .fault f) ∧
    (∀ r, exec i s = .refused r → exec i { s with ckAcc := acc } = .refused r)

/-- R38: PBUF is written only by payload capture, one byte at address FS.count: every other operation, and
FS.RXBYTE in every other state of the receiver, leaves every byte as it was, and capture leaves every byte
but that one. -/
def Obligations.MemoryWrittenByCaptureOnly : Prop :=
  ∀ (i : Instr) (s t : State) (a : Nat), exec i s = .next t →
    ((∀ b, i ≠ .fsRxbyte b) ∨ s.fs.state ≠ .payload ∨ a ≠ s.fs.count.toNat) →
      Memory.read t.pbuf a = Memory.read s.pbuf a

/-- R14, R111: an operation emits at most one output event. DRIVE comes only from SCH.TICK, with the value
SCH.drive then holds; RX_RESTART only from FS.TIMEOUT; TX only from a received byte or a service. -/
def Obligations.OutputEventSources : Prop :=
  ∀ (i : Instr) (s t : State), exec i s = .next t →
    t.events = s.events ∨
    (∃ (v : Byte) (p : F32), i = .schTick p ∧ t.events = s.events ++ [.drive v] ∧ t.sch.drive = v) ∨
    (i = .fsTimeout ∧ t.events = s.events ++ [.rxRestart]) ∨
    (∃ bytes, t.events = s.events ++ [.tx bytes] ∧
      ((∃ b, i = .fsRxbyte b) ∨ i = .mtPing ∨ i = .mtSelftest ∨ i = .mtReadvalue ∨ i = .mtSetcoeff ∨
        i = .mtSetbatch ∨ i = .mtSleep ∨ i = .mtError ∨ i = .diagPing ∨ i = .diagSelftest ∨
        i = .diagValue))

/-! ### Checksum calculator -/

/-- R77, R78, R79: CK.RESET loads CK_INIT, CK.UPDATE takes one byte into the register, CK.UPDATE_MANY takes
the bytes one after the other, index 0 first, so that a sequence in two parts is the parts in turn and an
empty sequence changes nothing. In BOOT and RUN. -/
def Obligations.ChecksumAccumulates : Prop :=
  ∀ s : State, s.notHalted →
    exec .ckReset s = .next { s with ckAcc := s.cfg.ckInit } ∧
    (∀ b, exec (.ckUpdate b) s = .next { s with ckAcc := crcStep s.cfg s.ckAcc b }) ∧
    exec (.ckUpdateMany []) s = .next s ∧
    (∀ b bs, ∃ t, exec (.ckUpdate b) s = .next t ∧
      exec (.ckUpdateMany (b :: bs)) s = exec (.ckUpdateMany bs) t) ∧
    (∀ bs cs, ∃ t, exec (.ckUpdateMany bs) s = .next t ∧
      exec (.ckUpdateMany (bs ++ cs)) s = exec (.ckUpdateMany cs) t)

/-- R80, R81: CK.VALUE returns the register, reflected when CK_REFOUT, with CK_XOROUT, and changes nothing
else; after CK.RESET and CK.UPDATE_MANY it returns Checksum. -/
def Obligations.ChecksumRead : Prop :=
  ∀ s : State, s.notHalted →
    exec .ckValue s =
      .next { s with
        res := some
          ((if s.cfg.ckRefout then reflectW s.cfg s.ckAcc else s.ckAcc) ^^^ s.cfg.ckXorout) } ∧
    ∀ bs, ∃ t u, exec .ckReset s = .next t ∧ exec (.ckUpdateMany bs) t = .next u ∧
      exec .ckValue u = .next { u with res := some (checksum s.cfg bs) }

/-- R83 item 3, for a polynomial whose constant term is set, as both defaults have: a single flipped bit
anywhere in a sequence changes its checksum. -/
def Obligations.SingleBitErrorDetected : Prop :=
  ∀ (cfg : Config) (pre post : List Byte) (b : Byte) (k : Nat), cfg.ok = true →
    cfg.ckPoly.getLsbD 0 = true → k < 8 →
      checksum cfg (pre ++ b :: post) ≠
        checksum cfg (pre ++ (b ^^^ BitVec.ofNat 8 (2 ^ k)) :: post)

/-! ### Boot, address filter, receiver -/

/-- R84: BLK.BOOT in BOOT reads the identity: RUN for a pattern of the table, HALTED for Invalid, without a
fault; in RUN it raises Refused(BOOT after boot); in HALTED it has no step. -/
def Obligations.BootReadsIdentity : Prop :=
  ∀ (s : State) (strap : BitVec 4), s.defined →
    (s.blk.mode = .boot → ∀ id, s.cfg.identityOf strap = some id →
      exec (.blkBoot strap) s =
        .next { s with self := .known id, blk := { s.blk with mode := .run } }) ∧
    (s.blk.mode = .boot → s.cfg.identityOf strap = none →
      exec (.blkBoot strap) s =
        .next { s with
          self := .invalid, blk := { s.blk with mode := .halted }
          fs := { s.fs with state := .halted } }) ∧
    (s.blk.mode = .run →
      exec (.blkBoot strap) s = .next (s.raise (.refused .bootAfterBoot))) ∧
    (s.blk.mode = .halted → ∀ t, exec (.blkBoot strap) s ≠ .next t)

/-- R86, R87: FS.IS_SELF answers 1 exactly for the board's own address; FS.START takes STOPPED to AWAIT_ADDR
and is otherwise without effect. -/
def Obligations.StartAndSelfMatch : Prop :=
  ∀ s : State, s.running →
    (∀ (id : Identity) (a : Byte), s.self = .known id →
      exec (.fsIsSelf a) s = .next { s with res := some (if a = id.addr then 1 else 0) }) ∧
    (∀ a : Byte, s.self = .unread ∨ s.self = .invalid →
      exec (.fsIsSelf a) s = .next { s with res := some 0 }) ∧
    (s.fs.state = .stopped →
      exec .fsStart s = .next { s with fs := { s.fs with state := .awaitAddr } }) ∧
    (s.fs.state ≠ .stopped → exec .fsStart s = .next s)

/-- R95: an expired timeout in a frame goes back to AWAIT_ADDR and emits RX_RESTART; in STOPPED and
AWAIT_ADDR it changes nothing. In BOOT and RUN (R140). -/
def Obligations.TimeoutRestartsReceiver : Prop :=
  ∀ s : State, s.notHalted →
    (s.fs.state ∈ [FsState.hdrType, .hdrSizeLo, .hdrSizeHi, .payload, .footer, .drain] →
      exec .fsTimeout s =
        .next { s with
          fs := { s.fs with state := .awaitAddr }, events := s.events ++ [.rxRestart] }) ∧
    (s.fs.state ∈ [FsState.stopped, .awaitAddr] → exec .fsTimeout s = .next s)

/-- R88, R89: a byte in STOPPED is lost; in AWAIT_ADDR one of the board's own diagnostic codes runs its
service, a code of another identity changes nothing, and any other byte starts a header. -/
def Obligations.AddressByte : Prop :=
  ∀ (s : State) (b : Byte), s.notHalted →
    (s.fs.state = .stopped → exec (.fsRxbyte b) s = .next s) ∧
    (∀ id, s.running → s.self = .known id → id ∈ s.cfg.identities → s.fs.state = .awaitAddr →
      (∀ i, decodeDiag id b = some i → exec (.fsRxbyte b) s = exec i s ∧ ∃ t, exec i s = .next t) ∧
      (decodeDiag id b = none → b ∈ s.cfg.diagCodes → exec (.fsRxbyte b) s = .next s) ∧
      (b ∉ s.cfg.diagCodes → exec (.fsRxbyte b) s =
        .next { s with fs := { s.fs with addr := b, state := .hdrType } }))

/-- R90, R91: the header bytes, and the classification of a frame by its address and size at the last of
them. That an oversize frame is drained and that a broadcast is accepted are the spec's own readings (R91's
closing paragraph, D7, D11), which the model follows. With either strategy (FS.RXBYTE with PULSE: log 11). -/
def Obligations.HeaderAndClassification : Prop :=
  ∀ (s : State) (b : Byte), s.inRun →
    (s.fs.state = .hdrType →
      exec (.fsRxbyte b) s = .next { s with fs := { s.fs with type := b, state := .hdrSizeLo } }) ∧
    (s.fs.state = .hdrSizeLo →
      exec (.fsRxbyte b) s =
        .next { s with fs := { s.fs with size := b.setWidth 16, state := .hdrSizeHi } }) ∧
    (s.fs.state = .hdrSizeHi →
      ∀ (size : U16) (toAll : Bool) (left : U32), size = s.fs.size ||| (b.setWidth 16 <<< 8) →
        toAll = decide (s.fs.addr = s.cfg.broadcastAddr) →
        left = BitVec.ofNat 32 (size.toNat + s.cfg.ckb) →
        (isSelf s s.fs.addr = false → toAll = false →
          exec (.fsRxbyte b) s = .next { s with
            fs := { s.fs with
              size := size, bcast := false, drainKind := .drop, drainRem := left
              state := .drain } }) ∧
        (isSelf s s.fs.addr = true ∨ toAll = true → s.cfg.maxPayload < size.toNat →
          exec (.fsRxbyte b) s = .next { s with
            fs := { s.fs with
              size := size, bcast := toAll, drainKind := .oversize, drainRem := left
              state := .drain } }) ∧
        (isSelf s s.fs.addr = true ∨ toAll = true → size = 0 →
          exec (.fsRxbyte b) s = .next { s with
            fs := { s.fs with
              size := 0, bcast := toAll, count := 0, foot := 0, state := .footer } }) ∧
        (isSelf s s.fs.addr = true ∨ toAll = true → size ≠ 0 → size.toNat ≤ s.cfg.maxPayload →
          exec (.fsRxbyte b) s = .next { s with
            fs := { s.fs with size := size, bcast := toAll, count := 0, state := .payload } }))

/-- R92: payload capture stores the byte at address FS.count and counts it; the last byte of the payload
leads to the footer. Every byte at another address reads as before. -/
def Obligations.PayloadCapture : Prop :=
  ∀ (s : State) (b : Byte), s.running → MemoryInv s → s.fs.state = .payload →
    s.fs.count.toNat < s.cfg.maxPayload →
    ∃ m, exec (.fsRxbyte b) s = .next { s with
        pbuf := m
        fs := if s.fs.count + 1 = s.fs.size then
            { s.fs with count := 0, foot := 0, state := .footer }
          else { s.fs with count := s.fs.count + 1 } } ∧
      Memory.read m s.fs.count.toNat = b ∧
      ∀ a, a ≠ s.fs.count.toNat → Memory.read m a = Memory.read s.pbuf a

/-- R93, R98: footer bytes enter FS.foot low byte first. At the last one the receiver goes to AWAIT_ADDR; a
frame whose checksum is not its footer is discarded; one whose checksum is its footer runs the service of
its type, an unknown type being answered with ERR_UNKNOWN_TYPE (R107). -/
def Obligations.FooterVerify : Prop :=
  ∀ (s : State) (b : Byte) (foot : U32), s.running → s.fs.state = .footer →
    s.fs.count.toNat < s.cfg.ckb → s.fs.size.toNat ≤ s.cfg.maxPayload →
    s.cfg.ckTrunc s.fs.foot = s.fs.foot →
    foot = s.fs.foot ||| (b.setWidth 32 <<< (8 * s.fs.count.toNat)) →
    (s.fs.count.toNat + 1 < s.cfg.ckb →
      exec (.fsRxbyte b) s =
        .next { s with fs := { s.fs with foot := foot, count := s.fs.count + 1 } }) ∧
    (s.fs.count.toNat + 1 = s.cfg.ckb →
      ∀ u, u = { s with
          fs := { s.fs with foot := foot, count := s.fs.count + 1, state := .awaitAddr } } →
        (checksum s.cfg (frameHeader s.fs ++ Memory.bytes s.pbuf 0 s.fs.size.toNat) ≠ foot →
          exec (.fsRxbyte b) s = .next u) ∧
        (checksum s.cfg (frameHeader s.fs ++ Memory.bytes s.pbuf 0 s.fs.size.toNat) = foot →
          (∀ i, decodeType s.cfg s.fs.type = some i → exec (.fsRxbyte b) s = exec i u) ∧
          (∀ id, decodeType s.cfg s.fs.type = none → s.self = .known id →
            exec (.fsRxbyte b) s =
              .next (answered id s.cfg.mtError (bytesLe16 s.cfg.errUnknownType) u))))

/-- R94: drained bytes are neither stored nor checked; the last one goes to AWAIT_ADDR, and only an
oversize frame to this board alone is answered, with ERR_TOO_LARGE. -/
def Obligations.DrainDiscards : Prop :=
  ∀ (s : State) (b : Byte), s.running → s.fs.state = .drain →
    (s.fs.drainRem ≠ 1 →
      exec (.fsRxbyte b) s =
        .next { s with fs := { s.fs with drainRem := s.fs.drainRem - 1 } }) ∧
    (s.fs.drainRem = 1 → ∀ u, u = { s with fs := { s.fs with drainRem := 0, state := .awaitAddr } } →
      (s.fs.drainKind = .drop ∨ s.fs.bcast = true → exec (.fsRxbyte b) s = .next u) ∧
      (∀ id, s.self = .known id → s.fs.drainKind = .oversize →
        exec (.fsRxbyte b) s =
          .next (answered id s.cfg.mtError (bytesLe16 s.cfg.errTooLarge) u)))

/-- R97 items 2 and 3: a whole frame to another board, of any type, payload and footer, leaves everything
but the receiver's working registers as it was: no byte is stored, nothing is emitted, and the receiver is
back in AWAIT_ADDR. With either strategy (FS.RXBYTE with PULSE: log 11). -/
def Obligations.ForeignFrameIgnored : Prop :=
  ∀ (s : State) (addr type : Byte) (p foot : List Byte), s.inRun → s.fs.state = .awaitAddr →
    isSelf s addr = false → addr ≠ s.cfg.broadcastAddr → addr ∉ s.cfg.diagCodes →
    p.length < 2 ^ 16 → foot.length = s.cfg.ckb →
    (∀ id, s.self = .known id → id ∈ s.cfg.identities) →
    ∃ t, receiveBytes (addr :: type :: (bytesLe16 (BitVec.ofNat 16 p.length) ++ p ++ foot)) s =
        some t ∧
      t = { s with fs := t.fs } ∧ t.fs.state = .awaitAddr

/-- R97 item 1, R93, R98: a whole frame to this board or to all, with a payload that fits and the footer of
R56, has its payload captured and then runs the service of its type, in the state in which the payload is
in PBUF and the receiver is back in AWAIT_ADDR. With either strategy: with PULSE the service, unless it is
set-coefficients, is refused (log 11), and then the frame has no next state. -/
def Obligations.ValidFrameServiced : Prop :=
  ∀ (s : State) (id : Identity) (addr type : Byte) (p : List Byte) (i : Instr), s.inRun →
    MemoryInv s → s.fs.state = .awaitAddr → s.self = .known id → id ∈ s.cfg.identities →
    addr = id.addr ∨ addr = s.cfg.broadcastAddr → p.length ≤ s.cfg.maxPayload →
    decodeType s.cfg type = some i →
    ∃ u, receiveBytes (makeFrame s.cfg addr type p) s = nextState? (exec i u) ∧
      u = { s with fs := u.fs, pbuf := u.pbuf } ∧
      u.fs.state = .awaitAddr ∧ u.fs.addr = addr ∧ u.fs.type = type ∧ u.fs.size.toNat = p.length ∧
      u.fs.bcast = decide (addr = s.cfg.broadcastAddr) ∧
      Memory.bytes u.pbuf 0 p.length = p ∧
      ∀ a, p.length ≤ a → Memory.read u.pbuf a = Memory.read s.pbuf a

/-- R97 item 4: a whole frame to this board or to all whose footer is not its checksum gets no reply and no
service: nothing changes but the receiver's working registers and the captured payload, and the receiver
is back in AWAIT_ADDR. With either strategy (FS.RXBYTE with PULSE: log 11). -/
def Obligations.CorruptFrameDiscarded : Prop :=
  ∀ (s : State) (id : Identity) (addr type : Byte) (p foot : List Byte), s.inRun →
    MemoryInv s → s.fs.state = .awaitAddr → s.self = .known id → id ∈ s.cfg.identities →
    addr = id.addr ∨ addr = s.cfg.broadcastAddr → p.length ≤ s.cfg.maxPayload →
    foot.length = s.cfg.ckb →
    foot ≠ footerBytes s.cfg
      (checksum s.cfg (addr :: type :: (bytesLe16 (BitVec.ofNat 16 p.length) ++ p))) →
    ∃ t, receiveBytes (addr :: type :: (bytesLe16 (BitVec.ofNat 16 p.length) ++ p ++ foot)) s =
        some t ∧
      t = { s with fs := t.fs, pbuf := t.pbuf } ∧ t.fs.state = .awaitAddr ∧
      ∀ a, p.length ≤ a → Memory.read t.pbuf a = Memory.read s.pbuf a

/-! ### Service routine -/

/-- R101, R107, R108: a ping is answered with a header-only frame of its type, MT_ERROR as a request with
ERR_UNKNOWN_TYPE, the board's own ping code with the byte ACK_BYTE; nothing else changes. -/
def Obligations.PingAndUnknownReplies : Prop :=
  ∀ (s : State) (id : Identity), s.running → s.self = .known id →
    exec .mtPing s = .next (answered id s.cfg.mtPing [] s) ∧
    exec .mtError s = .next (answered id s.cfg.mtError (bytesLe16 s.cfg.errUnknownType) s) ∧
    exec .diagPing s = .next { s with events := s.events ++ [.tx [s.cfg.ackByte]] }

/-- R102, R108: self-test offers SELFTEST_BATCH to the queue, silently dropped when it does not fit, and
emits TEXT_SELFTEST, framed for a frame and raw for the diagnostic code. The framed reply of a text longer
than MAX_PAYLOAD, which R99 excludes, is the model's choice (log 23). -/
def Obligations.SelftestReplies : Prop :=
  ∀ (s : State) (id : Identity) (q : List Batch), s.running → s.self = .known id →
    (q = if s.cfg.selftestBatch.count ≤ s.cfg.maxSp ∧ s.sch.queue.length < s.cfg.qdepth then
        s.sch.queue ++ [s.cfg.selftestBatch] else s.sch.queue) →
    exec .mtSelftest s =
      .next (answered id s.cfg.mtSelftest s.cfg.textSelftest
        { s with sch := { s.sch with queue := q } }) ∧
    exec .diagSelftest s =
      .next { s with
        sch := { s.sch with queue := q }, events := s.events ++ [.tx s.cfg.textSelftest] }

/-- R103, R108: read-value draws a fresh sample of the sensor and emits TEXT_VALUE of it, framed for a frame and
raw for the diagnostic code; RND.pos is not changed. The free value at the counter of draws is the model's
form of a draw (log 4), and the framed reply of a text longer than MAX_PAYLOAD the model's choice (log 23). -/
def Obligations.ReadValueReplies : Prop :=
  ∀ (s : State) (id : Identity), s.running → s.self = .known id →
    exec .mtReadvalue s =
      .next (answered id s.cfg.mtReadvalue (Config.textValue (Config.sensorSample s.draws))
        { s with draws := s.draws + 1 }) ∧
    exec .diagValue s =
      .next { s with
        draws := s.draws + 1
        events := s.events ++ [.tx (Config.textValue (Config.sensorSample s.draws))] }

/-- R104: a set-coefficients payload of another size than 12 is answered with ERR_BAD_SIZE, before the
strategy is looked at; without PID with ERR_NOT_PID; else the three little-endian f32 fields are stored, kp
as it is, ki divided by TICK_HZ, kd by KD_MODE, and the rest of the PID registers is kept. -/
def Obligations.SetCoefficientsRequest : Prop :=
  ∀ (s : State) (id : Identity), s.inRun → s.self = .known id →
    (s.fs.size ≠ 12 →
      exec .mtSetcoeff s =
        .next (answered id s.cfg.mtError (bytesLe16 s.cfg.errBadSize) s)) ∧
    (s.fs.size = 12 → s.cfg.strategy = .pulse →
      exec .mtSetcoeff s =
        .next (answered id s.cfg.mtError (bytesLe16 s.cfg.errNotPid) s)) ∧
    (∀ kp ki kd, s.fs.size = 12 → s.cfg.strategy = .pid → s.cfg.errNotPid ≠ 0 →
      Memory.bytes s.pbuf 0 12 = coefficientsPayload kp ki kd →
      exec .mtSetcoeff s =
        .next (answered id s.cfg.mtSetcoeff []
          { s with
            pid := { s.pid with
              kp := kp, ki := F32.div ki s.cfg.tickHz
              kd := match s.cfg.kdMode with
                | .mul => F32.mul kd s.cfg.tickHz
                | .div => F32.div kd s.cfg.tickHz } }))

/-- R105, R61: a set-setpoint-batch payload whose size is not 6 + 4 * count is answered with ERR_BAD_SIZE; a
payload that is the bytes of a batch appends that batch to the queue, or is answered with ERR_QUEUE_FULL
when the queue is full. -/
def Obligations.SetBatchRequest : Prop :=
  ∀ (s : State) (id : Identity), s.running → s.self = .known id →
    s.fs.size.toNat ≤ s.cfg.maxPayload →
    (s.fs.size.toNat < 6 ∨
        s.fs.size.toNat ≠ 6 + 4 * leValue (Memory.bytes s.pbuf 4 2) →
      exec .mtSetbatch s =
        .next (answered id s.cfg.mtError (bytesLe16 s.cfg.errBadSize) s)) ∧
    (∀ b : Batch, s.fs.size.toNat = 6 + 4 * b.count →
      Memory.bytes s.pbuf 0 s.fs.size.toNat = batchPayload b →
      (s.sch.queue.length < s.cfg.qdepth → s.cfg.errQueueFull ≠ 0 →
        exec .mtSetbatch s =
          .next (answered id s.cfg.mtSetbatch []
            { s with sch := { s.sch with queue := s.sch.queue ++ [b] } })) ∧
      (s.cfg.qdepth ≤ s.sch.queue.length →
        exec .mtSetbatch s =
          .next (answered id s.cfg.mtError (bytesLe16 s.cfg.errQueueFull) s)))

/-- R106, R122: SCH.STOP and the sleep/stop request clear the queue, whatever it holds, and put STOP_BATCH in
the next slot; the request is answered; the current batch is not touched. The next slot and the stop batch's
`loop = 1` are the spec's own choices (R122's closing sentence, D18, C13), which the model follows. -/
def Obligations.StopDiscardsQueue : Prop :=
  ∀ (s u : State),
    u = { s with
      sch := { s.sch with
        queue := []
        next := some { delay := 0, loop := 1, sp := [{ duration := 0, target := 0 }] } } } →
    (s.internalPort → exec .schStop s = .next u) ∧
    (∀ id, s.running → s.self = .known id →
      exec .mtSleep s = .next (answered id s.cfg.mtSleep [] u))

/-! ### Scheduler -/

/-- R110, R123: SCH.TIMER sets SCH.tick_pending and a second one before the tick is absorbed; SCH.CURPOS
returns RND.pos and changes nothing else. -/
def Obligations.TimerAndCurrentPosition : Prop :=
  ∀ s : State, s.running →
    (∃ t, exec .schTimer s = .next t ∧ t = { s with sch := { s.sch with tickPending := true } } ∧
      exec .schTimer t = .next t) ∧
    exec .schCurpos s = .next { s with res := some s.rnd.pos }

/-- R121: a batch is appended to a queue that is not full, status 0; with more than MAX_SP setpoints it is
ERR_BAD_SIZE, with a full queue ERR_QUEUE_FULL, and the queue stays. -/
def Obligations.EnqueueOffers : Prop :=
  ∀ (s : State) (b : Batch), s.running →
    (s.cfg.maxSp < b.count →
      exec (.schEnqueue b) s = .next { s with res := some (s.cfg.errBadSize.signExtend 32) }) ∧
    (b.count ≤ s.cfg.maxSp → s.sch.queue.length < s.cfg.qdepth →
      exec (.schEnqueue b) s =
        .next { s with sch := { s.sch with queue := s.sch.queue ++ [b] }, res := some 0 }) ∧
    (b.count ≤ s.cfg.maxSp → s.cfg.qdepth ≤ s.sch.queue.length →
      exec (.schEnqueue b) s = .next { s with res := some (s.cfg.errQueueFull.signExtend 32) })

/-- R111 to R116: a tick that finds no current batch, or one without setpoints, after the next slot has been
served: zero drive, one DRIVE(0), the strategy inactive; and every state has such registers after the
slots. -/
def Obligations.TickIdles : Prop :=
  (∀ r : SchRegs, ∃ r0, AfterSlots r r0) ∧
  ∀ (s : State) (p : F32) (r0 : SchRegs), s.running → s.sch.tickPending = true →
    AfterSlots s.sch r0 → (∀ b, r0.cur = some b → b.sp = []) →
      exec (.schTick p) s =
        .next { s with
          rnd := filterSample s.cfg p { s.rnd with sample := p }
          sch := { r0 with cur := none, tickPending := false, drive := 0, renderActive := false }
          events := s.events ++ [.drive 0] }

/-- R111 to R115, R117: a tick whose current batch has no loop budget left frees it, makes no DRIVE and
leaves SCH.drive as it was. -/
def Obligations.TickFreesExhausted : Prop :=
  ∀ (s : State) (p : F32) (r0 : SchRegs) (b : Batch), s.running → s.sch.tickPending = true →
    AfterSlots s.sch r0 → r0.cur = some b → b.sp ≠ [] → r0.loops = 0 →
      exec (.schTick p) s =
        .next { s with
          rnd := filterSample s.cfg p { s.rnd with sample := p }
          sch := { r0 with cur := none, tickPending := false } }

/-- R111 to R115, R118, R119, R120: a tick that renders. The sample is filtered, on (re)activation the
setpoint is re-seeded, the drive of the setpoint's target is computed and emitted, and the play position
advances. That `reset` runs only on (re)activation is the spec's own reading (R118's closing paragraph, D24,
C16), which the model follows. -/
def Obligations.TickRenders : Prop :=
  ∀ (s : State) (p : F32) (r0 : SchRegs) (b : Batch) (next : Nat) (x : Setpoint) (rnd : RndRegs)
    (seeded moved : PidRegs) (d : Byte), s.running →
    s.sch.tickPending = true → AfterSlots s.sch r0 → r0.cur = some b → r0.loops ≠ 0 →
    r0.idx.toNat < b.count → b.count ≤ s.cfg.maxSp →
    next = (if r0.idx.toNat + 1 = b.count then 0 else r0.idx.toNat + 1) → b.sp[next]? = some x →
    rnd = filterSample s.cfg p (filterSample s.cfg p { s.rnd with sample := p }) →
    seeded = (if r0.renderActive then s.pid
      else { s.pid with sp := (filterSample s.cfg p { s.rnd with sample := p }).pos }) →
    moved = { seeded with sp := acceptedSetpoint s.cfg (rawAngle s.cfg r0.target) seeded.sp } →
    d = F32.truncI8 (pidOutput s.cfg rnd.pos moved) →
      exec (.schTick p) s =
        .next { s with
          rnd := rnd, pid := pidAfterUpdate s.cfg rnd.pos moved, events := s.events ++ [.drive d]
          sch :=
            if r0.rem = 1 then
              { r0 with
                tickPending := false, renderActive := true, drive := d
                idx := BitVec.ofNat 16 next, rem := playTicks x.duration, target := x.target
                loops :=
                  if r0.idx.toNat + 1 = b.count ∧ r0.loops ≠ s.cfg.loopInf then r0.loops - 1
                  else r0.loops }
            else
              { r0 with
                tickPending := false, renderActive := true, drive := d, rem := r0.rem - 1 } }

/-- R124 item 1: a batch with a finite loop count N that the next tick makes current, whatever is current now,
and that is not replaced, renders on exactly N * sum of max(duration, 1) ticks, its activation tick the first
of them, one DRIVE each; the next tick frees it without a drive call; every later tick emits DRIVE(0).
Whatever the sensor samples. That N is below LOOP_INF is the reading of log 25. -/
def Obligations.FiniteBatchPlayTime : Prop :=
  ∀ (b : Batch) (s : State) (ps : List F32), AboutToPlay b s → b.loop ≠ 0 →
    b.loop.toNat < s.cfg.loopInf.toNat → ps.length = b.loop.toNat * passTicks b →
    ∃ t, timedTicks ps s = some t ∧ t.sch.cur = some b ∧ t.sch.loops = 0 ∧
      (∃ ds : List Byte, ds.length = ps.length ∧ t.events = s.events ++ ds.map Event.drive) ∧
      (∀ k, 0 < k → k < ps.length →
        ∃ u, timedTicks (ps.take k) s = some u ∧ u.sch.cur = some b ∧ u.sch.loops ≠ 0) ∧
      ∀ (p : F32) (qs : List F32), ∃ v, timedTicks (p :: qs) t = some v ∧ v.sch.cur = none ∧
        v.events = t.events ++ qs.map fun _ => Event.drive 0

/-- R124 item 2: a batch with the infinite loop count renders on every tick, one DRIVE each: from the tick that
makes it current, and from every play position on. -/
def Obligations.InfiniteBatchNeverEnds : Prop :=
  ∀ (b : Batch) (s : State) (ps : List F32), s.cfg.loopInf ≠ 0 →
    (AboutToPlay b s ∧ b.loop = s.cfg.loopInf ∧ ps ≠ []) ∨
      (Playing b s ∧ s.sch.loops = s.cfg.loopInf) →
    ∃ t, timedTicks ps s = some t ∧ Playing b t ∧ t.sch.loops = s.cfg.loopInf ∧
      ∃ ds : List Byte, ds.length = ps.length ∧ t.events = s.events ++ ds.map Event.drive

/-- R124 item 5: after SCH.STOP the first tick renders raw target 0, whatever was playing; the second frees
the stop batch without a drive call; every later tick emits DRIVE(0). -/
def Obligations.StopEndsMotion : Prop :=
  ∀ (s : State) (p1 p2 : F32) (ps : List F32), s.running →
    s.cfg.loopInf ≠ 1 →
    ∃ t1 t2 t3 d, timedTicks [p1] (stopMotion s) = some t1 ∧ t1.sch.cur = some stopBatch ∧
      t1.sch.target = 0 ∧ t1.events = s.events ++ [.drive d] ∧
      timedTicks [p2] t1 = some t2 ∧ t2.sch.cur = none ∧ t2.events = t1.events ∧
      timedTicks ps t2 = some t3 ∧ t3.events = t2.events ++ ps.map fun _ => Event.drive 0

/-! ### PID controller -/

/-- R125: PID.SETCOEF stores kp as given, ki divided by TICK_HZ and kd by KD_MODE, keeps the other PID
registers and returns 0; without PID it changes nothing and returns ERR_NOT_PID. -/
def Obligations.SetCoefficients : Prop :=
  ∀ (s : State) (kp ki kd : F32), s.inRun →
    (s.cfg.strategy = .pid →
      exec (.pidSetcoef kp ki kd) s =
        .next { s with
          res := some 0
          pid := { s.pid with
            kp := kp, ki := F32.div ki s.cfg.tickHz
            kd := match s.cfg.kdMode with
              | .mul => F32.mul kd s.cfg.tickHz
              | .div => F32.div kd s.cfg.tickHz } }) ∧
    (s.cfg.strategy = .pulse →
      exec (.pidSetcoef kp ki kd) s =
        .next { s with res := some (s.cfg.errNotPid.signExtend 32) })

/-- R126: PID.SETSP moves the setpoint, reset to 0 first when it is not finite, by the step toward the
target, a NaN step being 0, clamped to MAX_STEP; it returns the new setpoint. -/
def Obligations.SetSetpoint : Prop :=
  ∀ (s : State) (t sp d d' : F32), s.internalPort →
    sp = (if F32.finite s.pid.sp then s.pid.sp else 0) →
    d = (if F32.isNaN (F32.sub t sp) then 0 else F32.sub t sp) →
    d' = F32.clamp d (F32.neg s.cfg.maxStep) s.cfg.maxStep →
      exec (.pidSetsp t) s =
        .next { s with pid := { s.pid with sp := F32.add sp d' }, res := some (F32.add sp d') }

/-- R127: PID.UPDATE, in the order of its pseudocode: error, integrator guarded and clamped, output summed
((P + I) + D), guarded and clamped, last error saved. -/
def Obligations.UpdateController : Prop :=
  ∀ (s : State) (pos e i integ out out' : F32), s.internalPort →
    e = F32.sub s.pid.sp pos → i = F32.add s.pid.integ e →
    integ = F32.clamp (if F32.finite i then i else 0) (F32.neg s.cfg.driveMax) s.cfg.driveMax →
    out = F32.add (F32.add (F32.mul s.pid.kp e) (F32.mul s.pid.ki integ))
      (F32.mul s.pid.kd (F32.sub e s.pid.lastErr)) →
    out' = F32.clamp (if F32.finite out then out else 0) (F32.neg s.cfg.driveMax) s.cfg.driveMax →
      exec (.pidUpdate pos) s =
        .next { s with pid := { s.pid with integ := integ, lastErr := e }, res := some out' }

/-- R128: for every PID state and every operand, NaN and infinities included, the integrator and the output
of PID.UPDATE are finite and within the drive range; the setpoint PID.SETSP leaves is finite, for a
MAX_STEP below half a unit in the last place of the largest binary32 value (R126); and it is the old
setpoint plus one addition of a step of at most MAX_STEP. -/
def Obligations.PidStaysBounded : Prop :=
  ∀ (c : Config) (r : PidRegs) (pos t : F32), c.ok = true →
    (inDriveRange c (pidAfterUpdate c pos r).integ ∧
      F32.finite (pidAfterUpdate c pos r).integ = true) ∧
    (inDriveRange c (pidOutput c pos r) ∧ F32.finite (pidOutput c pos r) = true) ∧
    (F32.lt c.maxStep 0x73000000 = true → F32.finite (setSetpoint c t r).sp = true) ∧
    (F32.finite r.sp = true → ∃ d, F32.le (F32.neg c.maxStep) d = true ∧ F32.le d c.maxStep = true ∧
      (setSetpoint c t r).sp = F32.add r.sp d)

/-! ### Render strategy -/

/-- R132: RND.FILTER takes the first sample since reset and every sample whose distance from the cached
position is not at most NOISE, a NaN on either side included; and applied twice it is as applied once. -/
def Obligations.FilterTakesSample : Prop :=
  ∀ (s : State) (p : F32), s.internalPort →
    (s.rnd.posValid = false ∨ F32.le (F32.abs (F32.sub p s.rnd.pos)) s.cfg.noise = false →
      exec (.rndFilter p) s =
        .next { s with rnd := { s.rnd with pos := p, posValid := true } }) ∧
    (s.rnd.posValid = true → F32.le (F32.abs (F32.sub p s.rnd.pos)) s.cfg.noise = true →
      exec (.rndFilter p) s = .next s) ∧
    (∀ t, exec (.rndFilter p) s = .next t → exec (.rndFilter p) t = .next t)

/-- R133, R134, R136: RND.RESET re-seeds the setpoint to the cached position, RND.BEFORE filters the last
tick's sample again, RND.AFTER changes nothing. -/
def Obligations.RenderPhases : Prop :=
  ∀ s : State, s.internalPort →
    exec .rndReset s = .next { s with pid := { s.pid with sp := s.rnd.pos } } ∧
    exec .rndBefore s = exec (.rndFilter s.rnd.sample) s ∧
    (∃ t, exec .rndBefore s = .next t) ∧
    exec .rndAfter s = .next s

/-- R135, R137 items 1 and 2: RND.COMPUTE scales the raw target, clamps it to CAL_UPPER, moves the setpoint
toward it, updates the controller with the cached position and returns the truncated output, an integer
in -127 .. 127; with a finite RAW_SCALE and CAL_UPPER not below 0 the angle is never negative and never
above CAL_UPPER. -/
def Obligations.ComputeDrive : Prop :=
  ∀ (s : State) (raw : U16) (a : F32) (moved : PidRegs), s.internalPort →
    a = (if F32.gt (F32.mul (F32.ofNat raw.toNat) s.cfg.rawScale) s.cfg.calUpper then s.cfg.calUpper
      else F32.mul (F32.ofNat raw.toNat) s.cfg.rawScale) →
    moved = { s.pid with sp := acceptedSetpoint s.cfg a s.pid.sp } →
    (∃ d : Byte, d = F32.truncI8 (pidOutput s.cfg s.rnd.pos moved) ∧
      exec (.rndCompute raw) s =
        .next { s with
          pid := pidAfterUpdate s.cfg s.rnd.pos moved, res := some (d.signExtend 32) } ∧
      -127 ≤ d.toInt ∧ d.toInt ≤ 127) ∧
    (F32.finite s.cfg.rawScale = true → F32.le 0 s.cfg.calUpper = true →
      F32.le 0 a = true ∧ F32.le a s.cfg.calUpper = true)
end

