-- ==== Sys2Proof/Laws/Memory.lean ====
section
/-! SUPPORT. PBUF as a memory: what a write does to every read, that a write keeps the canonical form, and
what reading consecutive bytes sees. -/

namespace Sys2Proof.Machine

/-! ### Canonical form -/

theorem Memory.wfFrom_mono {lo lo' hi : Nat} {m : List Host.Cell} (hle : lo' ≤ lo)
    (h : Memory.wfFrom lo hi m = true) : Memory.wfFrom lo' hi m = true := by
  cases m with
  | nil => rfl
  | cons c m =>
    obtain ⟨k, w⟩ := c
    simp only [Memory.wfFrom, Bool.and_eq_true, decide_eq_true_eq] at h ⊢
    exact ⟨⟨⟨by omega, h.1.1.2⟩, h.1.2⟩, h.2⟩

/-- A write within the memory keeps the canonical form. -/
theorem Memory.wfFrom_write {lo hi a : Nat} {v : Byte} {m : List Host.Cell}
    (h : Memory.wfFrom lo hi m = true) (hlo : lo ≤ a) (hhi : a < hi) :
    Memory.wfFrom lo hi (Memory.write m a v) = true := by
  induction m generalizing lo with
  | nil =>
    by_cases hv : v = Memory.unlisted <;> simp [Memory.write, Memory.wfFrom, hv, hlo, hhi]
  | cons c m ih =>
    obtain ⟨k, w⟩ := c
    have h0 := h
    simp only [Memory.wfFrom, Bool.and_eq_true, decide_eq_true_eq] at h
    obtain ⟨⟨⟨h1, h2⟩, h3⟩, h4⟩ := h
    unfold Memory.write
    split
    · split
      · exact h0
      · rename_i hak hv
        simp only [Memory.wfFrom, Bool.and_eq_true, decide_eq_true_eq]
        exact ⟨⟨⟨hlo, hhi⟩, hv⟩, ⟨⟨by omega, h2⟩, h3⟩, h4⟩
    · split
      · split
        · exact Memory.wfFrom_mono (by omega) h4
        · rename_i hak hv
          simp only [Memory.wfFrom, Bool.and_eq_true, decide_eq_true_eq]
          exact ⟨⟨⟨hlo, hhi⟩, hv⟩, Memory.wfFrom_mono (by omega) h4⟩
      · simp only [Memory.wfFrom, Bool.and_eq_true, decide_eq_true_eq]
        exact ⟨⟨⟨h1, h2⟩, h3⟩, ih h4 (by omega)⟩

theorem Memory.wf_write {size a : Nat} {v : Byte} {m : List Host.Cell}
    (h : Memory.wf size m = true) (ha : a < size) :
    Memory.wf size (Memory.write m a v) = true :=
  Memory.wfFrom_write h (Nat.zero_le a) ha

/-- Reset memory has the canonical form (R156). -/
theorem Memory.wf_reset : Memory.wf State.reset.cfg.maxPayload State.reset.pbuf = true := rfl

/-! ### Reads -/

@[simp] theorem Memory.read_nil (a : Nat) : Memory.read [] a = 0x00 := rfl

/-- Below the first address of a canonical memory every byte reads as unlisted. -/
theorem Memory.read_below {lo hi a : Nat} {m : List Host.Cell} (h : Memory.wfFrom lo hi m = true)
    (ha : a < lo) : Memory.read m a = Memory.unlisted := by
  induction m generalizing lo with
  | nil => rfl
  | cons c m ih =>
    obtain ⟨k, w⟩ := c
    simp only [Memory.wfFrom, Bool.and_eq_true, decide_eq_true_eq] at h
    have hne : a ≠ k := by omega
    simp only [Memory.read, if_neg hne]
    exact ih h.2 (by omega)

/-- Every other byte reads as before, whatever the memory. -/
theorem Memory.read_write_other {m : List Host.Cell} {a b : Nat} {v : Byte} (h : b ≠ a) :
    Memory.read (Memory.write m a v) b = Memory.read m b := by
  induction m with
  | nil =>
    unfold Memory.write
    split
    · rfl
    · simp [Memory.read, h]
  | cons c m ih =>
    obtain ⟨k, w⟩ := c
    unfold Memory.write
    split
    · split
      · rfl
      · simp [Memory.read, h]
    · split
      · rename_i hak
        have hbk : b ≠ k := hak ▸ h
        split
        · simp [Memory.read, hbk]
        · simp [Memory.read, h, hbk]
      · simp only [Memory.read, ih]

/-- A written byte reads as written, in a canonical memory. -/
theorem Memory.read_write_same_from {lo hi : Nat} {m : List Host.Cell} {a : Nat} {v : Byte}
    (h : Memory.wfFrom lo hi m = true) : Memory.read (Memory.write m a v) a = v := by
  induction m generalizing lo with
  | nil =>
    unfold Memory.write
    split
    · rename_i hv
      simp only [Memory.read, hv]
    · simp only [Memory.read, if_true]
  | cons c m ih =>
    obtain ⟨k, w⟩ := c
    simp only [Memory.wfFrom, Bool.and_eq_true, decide_eq_true_eq] at h
    unfold Memory.write
    split
    · rename_i hak
      split
      · rename_i hv
        have hne : a ≠ k := by omega
        simp only [Memory.read, if_neg hne]
        rw [Memory.read_below h.2 (by omega), hv]
      · simp [Memory.read]
    · split
      · rename_i hak
        split
        · rename_i hv
          rw [Memory.read_below h.2 (by omega), hv]
        · simp [Memory.read]
      · rename_i hne
        simp only [Memory.read, if_neg hne]
        exact ih h.2

theorem Memory.read_write_same {size : Nat} {m : List Host.Cell} {a : Nat} {v : Byte}
    (h : Memory.wf size m = true) : Memory.read (Memory.write m a v) a = v :=
  Memory.read_write_same_from h

/-! ### Consecutive bytes -/

@[simp] theorem Memory.bytes_length (m : List Host.Cell) (a n : Nat) :
    (Memory.bytes m a n).length = n := by
  induction n generalizing a with
  | zero => rfl
  | succ n ih => simp [Memory.bytes, ih]

/-- Byte `i` of a run of bytes is the byte at its address. -/
theorem Memory.bytes_get? (m : List Host.Cell) (a n i : Nat) (h : i < n) :
    (Memory.bytes m a n)[i]? = some (Memory.read m (a + i)) := by
  induction n generalizing a i with
  | zero => omega
  | succ n ih =>
    cases i with
    | zero => simp [Memory.bytes]
    | succ i =>
      simp only [Memory.bytes, List.getElem?_cons_succ]
      rw [ih (a + 1) i (by omega)]
      congr 2
      omega

theorem Memory.bytes_add (m : List Host.Cell) (a n k : Nat) :
    Memory.bytes m a (n + k) = Memory.bytes m a n ++ Memory.bytes m (a + n) k := by
  induction n generalizing a with
  | zero => simp [Memory.bytes]
  | succ n ih =>
    rw [show n + 1 + k = (n + k) + 1 from by omega]
    simp only [Memory.bytes, List.cons_append, ih (a + 1)]
    rw [show a + 1 + n = a + (n + 1) from by omega]

theorem Memory.bytes_succ_last (m : List Host.Cell) (a n : Nat) :
    Memory.bytes m a (n + 1) = Memory.bytes m a n ++ [Memory.read m (a + n)] := by
  rw [Memory.bytes_add]
  rfl

/-- A write past a run of bytes leaves the run as it was. -/
theorem Memory.bytes_write_past {m : List Host.Cell} {a n b : Nat} {v : Byte} (h : a + n ≤ b) :
    Memory.bytes (Memory.write m b v) a n = Memory.bytes m a n := by
  induction n generalizing a with
  | zero => rfl
  | succ n ih =>
    simp only [Memory.bytes, ih (show a + 1 + n ≤ b by omega),
      Memory.read_write_other (show a ≠ b by omega)]

/-! ### The operations -/

/-- Everything `MemWrite` can do. -/
theorem memWrite_cases {s : State} {a : Nat} {v : Byte} {t : State} (h : memWrite s a v = .ok t) :
    a < s.cfg.maxPayload ∧ t = { s with pbuf := Memory.write s.pbuf a v } := by
  unfold memWrite at h
  split at h
  · exact ⟨‹_›, by cases h; rfl⟩
  · cases h

/-- Everything `MemRead` can do. -/
theorem memRead_cases {s : State} {a n v : Nat} (h : memRead s a n = .ok v) :
    a + n ≤ s.fs.size.toNat ∧ a + n ≤ s.cfg.maxPayload ∧ v = leValue (Memory.bytes s.pbuf a n) := by
  unfold memRead at h
  split at h
  · cases h
  · split at h
    · cases h
    · cases h
      exact ⟨by omega, by omega, rfl⟩

/-- Within the frame and the buffer, `MemRead` reads. -/
theorem memRead_ok {s : State} {a n : Nat} (hs : a + n ≤ s.fs.size.toNat)
    (hm : a + n ≤ s.cfg.maxPayload) : memRead s a n = .ok (leValue (Memory.bytes s.pbuf a n)) := by
  simp [memRead, Nat.not_lt.mpr hs, Nat.not_lt.mpr hm]

theorem memRead16_ok {s : State} {a : Nat} (hs : a + 2 ≤ s.fs.size.toNat)
    (hm : a + 2 ≤ s.cfg.maxPayload) :
    memRead16 s a = .ok (BitVec.ofNat 16 (leValue (Memory.bytes s.pbuf a 2))) := by
  simp only [memRead16, memRead_ok hs hm]
  rfl

theorem memRead32_ok {s : State} {a : Nat} (hs : a + 4 ≤ s.fs.size.toNat)
    (hm : a + 4 ≤ s.cfg.maxPayload) :
    memRead32 s a = .ok (BitVec.ofNat 32 (leValue (Memory.bytes s.pbuf a 4))) := by
  simp only [memRead32, memRead_ok hs hm]
  rfl

theorem framePayload_ok {s : State} (h : s.fs.size.toNat ≤ s.cfg.maxPayload) :
    framePayload s = .ok (Memory.bytes s.pbuf 0 s.fs.size.toNat) := by
  simp [framePayload, Nat.not_lt.mpr h]

end Sys2Proof.Machine
end

