-- ==== Sys2Proof/Laws/State.lean ====
section
/-! SUPPORT. What each named update of the state writes: one equation per field per update, so that no proof
unfolds a record update. -/

namespace Sys2Proof.Machine

/-! ### `State.raise` -/

@[simp] theorem State.raise_cfg (s : State) (info : FaultInfo) :
    (s.raise info).cfg = s.cfg := rfl
@[simp] theorem State.raise_blk (s : State) (info : FaultInfo) :
    (s.raise info).blk = { mode := .halted, fault := true, faultInfo := some info } := rfl
@[simp] theorem State.raise_ckAcc (s : State) (info : FaultInfo) :
    (s.raise info).ckAcc = s.ckAcc := rfl
@[simp] theorem State.raise_self (s : State) (info : FaultInfo) :
    (s.raise info).self = s.self := rfl
@[simp] theorem State.raise_fs (s : State) (info : FaultInfo) :
    (s.raise info).fs = { s.fs with state := .halted } := rfl
@[simp] theorem State.raise_pbuf (s : State) (info : FaultInfo) :
    (s.raise info).pbuf = s.pbuf := rfl
@[simp] theorem State.raise_sch (s : State) (info : FaultInfo) :
    (s.raise info).sch = s.sch := rfl
@[simp] theorem State.raise_pid (s : State) (info : FaultInfo) :
    (s.raise info).pid = s.pid := rfl
@[simp] theorem State.raise_rnd (s : State) (info : FaultInfo) :
    (s.raise info).rnd = s.rnd := rfl
@[simp] theorem State.raise_port (s : State) (info : FaultInfo) :
    (s.raise info).port = s.port := rfl
@[simp] theorem State.raise_res (s : State) (info : FaultInfo) :
    (s.raise info).res = s.res := rfl
@[simp] theorem State.raise_events (s : State) (info : FaultInfo) :
    (s.raise info).events = s.events := rfl
@[simp] theorem State.raise_draws (s : State) (info : FaultInfo) :
    (s.raise info).draws = s.draws := rfl

/-! ### `State.emit` -/

@[simp] theorem State.emit_cfg (s : State) (e : Event) :
    (s.emit e).cfg = s.cfg := rfl
@[simp] theorem State.emit_blk (s : State) (e : Event) :
    (s.emit e).blk = s.blk := rfl
@[simp] theorem State.emit_ckAcc (s : State) (e : Event) :
    (s.emit e).ckAcc = s.ckAcc := rfl
@[simp] theorem State.emit_self (s : State) (e : Event) :
    (s.emit e).self = s.self := rfl
@[simp] theorem State.emit_fs (s : State) (e : Event) :
    (s.emit e).fs = s.fs := rfl
@[simp] theorem State.emit_pbuf (s : State) (e : Event) :
    (s.emit e).pbuf = s.pbuf := rfl
@[simp] theorem State.emit_sch (s : State) (e : Event) :
    (s.emit e).sch = s.sch := rfl
@[simp] theorem State.emit_pid (s : State) (e : Event) :
    (s.emit e).pid = s.pid := rfl
@[simp] theorem State.emit_rnd (s : State) (e : Event) :
    (s.emit e).rnd = s.rnd := rfl
@[simp] theorem State.emit_port (s : State) (e : Event) :
    (s.emit e).port = s.port := rfl
@[simp] theorem State.emit_res (s : State) (e : Event) :
    (s.emit e).res = s.res := rfl
@[simp] theorem State.emit_events (s : State) (e : Event) :
    (s.emit e).events = s.events ++ [e] := rfl
@[simp] theorem State.emit_draws (s : State) (e : Event) :
    (s.emit e).draws = s.draws := rfl

/-! ### `State.setRes` -/

@[simp] theorem State.setRes_cfg (s : State) (v : U32) :
    (s.setRes v).cfg = s.cfg := rfl
@[simp] theorem State.setRes_blk (s : State) (v : U32) :
    (s.setRes v).blk = s.blk := rfl
@[simp] theorem State.setRes_ckAcc (s : State) (v : U32) :
    (s.setRes v).ckAcc = s.ckAcc := rfl
@[simp] theorem State.setRes_self (s : State) (v : U32) :
    (s.setRes v).self = s.self := rfl
@[simp] theorem State.setRes_fs (s : State) (v : U32) :
    (s.setRes v).fs = s.fs := rfl
@[simp] theorem State.setRes_pbuf (s : State) (v : U32) :
    (s.setRes v).pbuf = s.pbuf := rfl
@[simp] theorem State.setRes_sch (s : State) (v : U32) :
    (s.setRes v).sch = s.sch := rfl
@[simp] theorem State.setRes_pid (s : State) (v : U32) :
    (s.setRes v).pid = s.pid := rfl
@[simp] theorem State.setRes_rnd (s : State) (v : U32) :
    (s.setRes v).rnd = s.rnd := rfl
@[simp] theorem State.setRes_port (s : State) (v : U32) :
    (s.setRes v).port = s.port := rfl
@[simp] theorem State.setRes_res (s : State) (v : U32) :
    (s.setRes v).res = some v := rfl
@[simp] theorem State.setRes_events (s : State) (v : U32) :
    (s.setRes v).events = s.events := rfl
@[simp] theorem State.setRes_draws (s : State) (v : U32) :
    (s.setRes v).draws = s.draws := rfl

/-! ### `State.countDraw` -/

@[simp] theorem State.countDraw_cfg (s : State) :
    s.countDraw.cfg = s.cfg := rfl
@[simp] theorem State.countDraw_blk (s : State) :
    s.countDraw.blk = s.blk := rfl
@[simp] theorem State.countDraw_ckAcc (s : State) :
    s.countDraw.ckAcc = s.ckAcc := rfl
@[simp] theorem State.countDraw_self (s : State) :
    s.countDraw.self = s.self := rfl
@[simp] theorem State.countDraw_fs (s : State) :
    s.countDraw.fs = s.fs := rfl
@[simp] theorem State.countDraw_pbuf (s : State) :
    s.countDraw.pbuf = s.pbuf := rfl
@[simp] theorem State.countDraw_sch (s : State) :
    s.countDraw.sch = s.sch := rfl
@[simp] theorem State.countDraw_pid (s : State) :
    s.countDraw.pid = s.pid := rfl
@[simp] theorem State.countDraw_rnd (s : State) :
    s.countDraw.rnd = s.rnd := rfl
@[simp] theorem State.countDraw_port (s : State) :
    s.countDraw.port = s.port := rfl
@[simp] theorem State.countDraw_res (s : State) :
    s.countDraw.res = s.res := rfl
@[simp] theorem State.countDraw_events (s : State) :
    s.countDraw.events = s.events := rfl
@[simp] theorem State.countDraw_draws (s : State) :
    s.countDraw.draws = s.draws + 1 := rfl

/-! ### `State.withPort` -/

@[simp] theorem State.withPort_cfg (s : State) (cs : List Command) :
    (s.withPort cs).cfg = s.cfg := rfl
@[simp] theorem State.withPort_blk (s : State) (cs : List Command) :
    (s.withPort cs).blk = s.blk := rfl
@[simp] theorem State.withPort_ckAcc (s : State) (cs : List Command) :
    (s.withPort cs).ckAcc = s.ckAcc := rfl
@[simp] theorem State.withPort_self (s : State) (cs : List Command) :
    (s.withPort cs).self = s.self := rfl
@[simp] theorem State.withPort_fs (s : State) (cs : List Command) :
    (s.withPort cs).fs = s.fs := rfl
@[simp] theorem State.withPort_pbuf (s : State) (cs : List Command) :
    (s.withPort cs).pbuf = s.pbuf := rfl
@[simp] theorem State.withPort_sch (s : State) (cs : List Command) :
    (s.withPort cs).sch = s.sch := rfl
@[simp] theorem State.withPort_pid (s : State) (cs : List Command) :
    (s.withPort cs).pid = s.pid := rfl
@[simp] theorem State.withPort_rnd (s : State) (cs : List Command) :
    (s.withPort cs).rnd = s.rnd := rfl
@[simp] theorem State.withPort_port (s : State) (cs : List Command) :
    (s.withPort cs).port = cs := rfl
@[simp] theorem State.withPort_res (s : State) (cs : List Command) :
    (s.withPort cs).res = s.res := rfl
@[simp] theorem State.withPort_events (s : State) (cs : List Command) :
    (s.withPort cs).events = s.events := rfl
@[simp] theorem State.withPort_draws (s : State) (cs : List Command) :
    (s.withPort cs).draws = s.draws := rfl

/-! ### `renderReset` -/

@[simp] theorem renderReset_cfg (s : State) :
    (renderReset s).cfg = s.cfg := rfl
@[simp] theorem renderReset_blk (s : State) :
    (renderReset s).blk = s.blk := rfl
@[simp] theorem renderReset_ckAcc (s : State) :
    (renderReset s).ckAcc = s.ckAcc := rfl
@[simp] theorem renderReset_self (s : State) :
    (renderReset s).self = s.self := rfl
@[simp] theorem renderReset_fs (s : State) :
    (renderReset s).fs = s.fs := rfl
@[simp] theorem renderReset_pbuf (s : State) :
    (renderReset s).pbuf = s.pbuf := rfl
@[simp] theorem renderReset_sch (s : State) :
    (renderReset s).sch = s.sch := rfl
@[simp] theorem renderReset_pid (s : State) :
    (renderReset s).pid = { s.pid with sp := s.rnd.pos } := rfl
@[simp] theorem renderReset_rnd (s : State) :
    (renderReset s).rnd = s.rnd := rfl
@[simp] theorem renderReset_port (s : State) :
    (renderReset s).port = s.port := rfl
@[simp] theorem renderReset_res (s : State) :
    (renderReset s).res = s.res := rfl
@[simp] theorem renderReset_events (s : State) :
    (renderReset s).events = s.events := rfl
@[simp] theorem renderReset_draws (s : State) :
    (renderReset s).draws = s.draws := rfl

/-! ### `renderBefore` -/

@[simp] theorem renderBefore_cfg (s : State) :
    (renderBefore s).cfg = s.cfg := rfl
@[simp] theorem renderBefore_blk (s : State) :
    (renderBefore s).blk = s.blk := rfl
@[simp] theorem renderBefore_ckAcc (s : State) :
    (renderBefore s).ckAcc = s.ckAcc := rfl
@[simp] theorem renderBefore_self (s : State) :
    (renderBefore s).self = s.self := rfl
@[simp] theorem renderBefore_fs (s : State) :
    (renderBefore s).fs = s.fs := rfl
@[simp] theorem renderBefore_pbuf (s : State) :
    (renderBefore s).pbuf = s.pbuf := rfl
@[simp] theorem renderBefore_sch (s : State) :
    (renderBefore s).sch = s.sch := rfl
@[simp] theorem renderBefore_pid (s : State) :
    (renderBefore s).pid = s.pid := rfl
@[simp] theorem renderBefore_rnd (s : State) :
    (renderBefore s).rnd = filterSample s.cfg s.rnd.sample s.rnd := rfl
@[simp] theorem renderBefore_port (s : State) :
    (renderBefore s).port = s.port := rfl
@[simp] theorem renderBefore_res (s : State) :
    (renderBefore s).res = s.res := rfl
@[simp] theorem renderBefore_events (s : State) :
    (renderBefore s).events = s.events := rfl
@[simp] theorem renderBefore_draws (s : State) :
    (renderBefore s).draws = s.draws := rfl

/-! ### `renderAfter` -/

@[simp] theorem renderAfter_cfg (s : State) :
    (renderAfter s).cfg = s.cfg := rfl
@[simp] theorem renderAfter_blk (s : State) :
    (renderAfter s).blk = s.blk := rfl
@[simp] theorem renderAfter_ckAcc (s : State) :
    (renderAfter s).ckAcc = s.ckAcc := rfl
@[simp] theorem renderAfter_self (s : State) :
    (renderAfter s).self = s.self := rfl
@[simp] theorem renderAfter_fs (s : State) :
    (renderAfter s).fs = s.fs := rfl
@[simp] theorem renderAfter_pbuf (s : State) :
    (renderAfter s).pbuf = s.pbuf := rfl
@[simp] theorem renderAfter_sch (s : State) :
    (renderAfter s).sch = s.sch := rfl
@[simp] theorem renderAfter_pid (s : State) :
    (renderAfter s).pid = s.pid := rfl
@[simp] theorem renderAfter_rnd (s : State) :
    (renderAfter s).rnd = s.rnd := rfl
@[simp] theorem renderAfter_port (s : State) :
    (renderAfter s).port = s.port := rfl
@[simp] theorem renderAfter_res (s : State) :
    (renderAfter s).res = s.res := rfl
@[simp] theorem renderAfter_events (s : State) :
    (renderAfter s).events = s.events := rfl
@[simp] theorem renderAfter_draws (s : State) :
    (renderAfter s).draws = s.draws := rfl

/-! ### `computeWithResult` -/

@[simp] theorem computeWithResult_cfg (raw : U16) (s : State) :
    (computeWithResult raw s).cfg = s.cfg := rfl
@[simp] theorem computeWithResult_blk (raw : U16) (s : State) :
    (computeWithResult raw s).blk = s.blk := rfl
@[simp] theorem computeWithResult_ckAcc (raw : U16) (s : State) :
    (computeWithResult raw s).ckAcc = s.ckAcc := rfl
@[simp] theorem computeWithResult_self (raw : U16) (s : State) :
    (computeWithResult raw s).self = s.self := rfl
@[simp] theorem computeWithResult_fs (raw : U16) (s : State) :
    (computeWithResult raw s).fs = s.fs := rfl
@[simp] theorem computeWithResult_pbuf (raw : U16) (s : State) :
    (computeWithResult raw s).pbuf = s.pbuf := rfl
@[simp] theorem computeWithResult_sch (raw : U16) (s : State) :
    (computeWithResult raw s).sch = s.sch := rfl
@[simp] theorem computeWithResult_pid (raw : U16) (s : State) :
    (computeWithResult raw s).pid = pidAfterUpdate s.cfg s.rnd.pos
      (setSetpoint s.cfg (rawAngle s.cfg raw) s.pid) := rfl
@[simp] theorem computeWithResult_rnd (raw : U16) (s : State) :
    (computeWithResult raw s).rnd = s.rnd := rfl
@[simp] theorem computeWithResult_port (raw : U16) (s : State) :
    (computeWithResult raw s).port = s.port := rfl
@[simp] theorem computeWithResult_res (raw : U16) (s : State) :
    (computeWithResult raw s).res = some (resI8 (renderCompute raw s).2) := rfl
@[simp] theorem computeWithResult_events (raw : U16) (s : State) :
    (computeWithResult raw s).events = s.events := rfl
@[simp] theorem computeWithResult_draws (raw : U16) (s : State) :
    (computeWithResult raw s).draws = s.draws := rfl

/-! ### `tickSample` -/

@[simp] theorem tickSample_cfg (p : F32) (s : State) :
    (tickSample p s).cfg = s.cfg := rfl
@[simp] theorem tickSample_blk (p : F32) (s : State) :
    (tickSample p s).blk = s.blk := rfl
@[simp] theorem tickSample_ckAcc (p : F32) (s : State) :
    (tickSample p s).ckAcc = s.ckAcc := rfl
@[simp] theorem tickSample_self (p : F32) (s : State) :
    (tickSample p s).self = s.self := rfl
@[simp] theorem tickSample_fs (p : F32) (s : State) :
    (tickSample p s).fs = s.fs := rfl
@[simp] theorem tickSample_pbuf (p : F32) (s : State) :
    (tickSample p s).pbuf = s.pbuf := rfl
@[simp] theorem tickSample_sch (p : F32) (s : State) :
    (tickSample p s).sch = s.sch := rfl
@[simp] theorem tickSample_pid (p : F32) (s : State) :
    (tickSample p s).pid = s.pid := rfl
@[simp] theorem tickSample_rnd (p : F32) (s : State) :
    (tickSample p s).rnd = filterSample s.cfg p { s.rnd with sample := p } := rfl
@[simp] theorem tickSample_port (p : F32) (s : State) :
    (tickSample p s).port = s.port := rfl
@[simp] theorem tickSample_res (p : F32) (s : State) :
    (tickSample p s).res = s.res := rfl
@[simp] theorem tickSample_events (p : F32) (s : State) :
    (tickSample p s).events = s.events := rfl
@[simp] theorem tickSample_draws (p : F32) (s : State) :
    (tickSample p s).draws = s.draws := rfl

/-! ### `tickIdle` -/

@[simp] theorem tickIdle_cfg (s : State) :
    (tickIdle s).cfg = s.cfg := rfl
@[simp] theorem tickIdle_blk (s : State) :
    (tickIdle s).blk = s.blk := rfl
@[simp] theorem tickIdle_ckAcc (s : State) :
    (tickIdle s).ckAcc = s.ckAcc := rfl
@[simp] theorem tickIdle_self (s : State) :
    (tickIdle s).self = s.self := rfl
@[simp] theorem tickIdle_fs (s : State) :
    (tickIdle s).fs = s.fs := rfl
@[simp] theorem tickIdle_pbuf (s : State) :
    (tickIdle s).pbuf = s.pbuf := rfl
@[simp] theorem tickIdle_sch (s : State) :
    (tickIdle s).sch = { s.sch with drive := 0, renderActive := false } := rfl
@[simp] theorem tickIdle_pid (s : State) :
    (tickIdle s).pid = s.pid := rfl
@[simp] theorem tickIdle_rnd (s : State) :
    (tickIdle s).rnd = s.rnd := rfl
@[simp] theorem tickIdle_port (s : State) :
    (tickIdle s).port = s.port := rfl
@[simp] theorem tickIdle_res (s : State) :
    (tickIdle s).res = s.res := rfl
@[simp] theorem tickIdle_events (s : State) :
    (tickIdle s).events = s.events ++ [.drive 0] := rfl
@[simp] theorem tickIdle_draws (s : State) :
    (tickIdle s).draws = s.draws := rfl

/-! ### `tickExhausted` -/

@[simp] theorem tickExhausted_cfg (s : State) :
    (tickExhausted s).cfg = s.cfg := rfl
@[simp] theorem tickExhausted_blk (s : State) :
    (tickExhausted s).blk = s.blk := rfl
@[simp] theorem tickExhausted_ckAcc (s : State) :
    (tickExhausted s).ckAcc = s.ckAcc := rfl
@[simp] theorem tickExhausted_self (s : State) :
    (tickExhausted s).self = s.self := rfl
@[simp] theorem tickExhausted_fs (s : State) :
    (tickExhausted s).fs = s.fs := rfl
@[simp] theorem tickExhausted_pbuf (s : State) :
    (tickExhausted s).pbuf = s.pbuf := rfl
@[simp] theorem tickExhausted_sch (s : State) :
    (tickExhausted s).sch = { s.sch with cur := none } := rfl
@[simp] theorem tickExhausted_pid (s : State) :
    (tickExhausted s).pid = s.pid := rfl
@[simp] theorem tickExhausted_rnd (s : State) :
    (tickExhausted s).rnd = s.rnd := rfl
@[simp] theorem tickExhausted_port (s : State) :
    (tickExhausted s).port = s.port := rfl
@[simp] theorem tickExhausted_res (s : State) :
    (tickExhausted s).res = s.res := rfl
@[simp] theorem tickExhausted_events (s : State) :
    (tickExhausted s).events = s.events := rfl
@[simp] theorem tickExhausted_draws (s : State) :
    (tickExhausted s).draws = s.draws := rfl

/-! ### `enqueue` -/

@[simp] theorem enqueue_cfg (b : Batch) (s : State) :
    (enqueue b s).cfg = s.cfg := rfl
@[simp] theorem enqueue_blk (b : Batch) (s : State) :
    (enqueue b s).blk = s.blk := rfl
@[simp] theorem enqueue_ckAcc (b : Batch) (s : State) :
    (enqueue b s).ckAcc = s.ckAcc := rfl
@[simp] theorem enqueue_self (b : Batch) (s : State) :
    (enqueue b s).self = s.self := rfl
@[simp] theorem enqueue_fs (b : Batch) (s : State) :
    (enqueue b s).fs = s.fs := rfl
@[simp] theorem enqueue_pbuf (b : Batch) (s : State) :
    (enqueue b s).pbuf = s.pbuf := rfl
@[simp] theorem enqueue_sch (b : Batch) (s : State) :
    (enqueue b s).sch = { s.sch with queue := (enqueueBatch s.cfg b s.sch.queue).1 } := rfl
@[simp] theorem enqueue_pid (b : Batch) (s : State) :
    (enqueue b s).pid = s.pid := rfl
@[simp] theorem enqueue_rnd (b : Batch) (s : State) :
    (enqueue b s).rnd = s.rnd := rfl
@[simp] theorem enqueue_port (b : Batch) (s : State) :
    (enqueue b s).port = s.port := rfl
@[simp] theorem enqueue_res (b : Batch) (s : State) :
    (enqueue b s).res = s.res := rfl
@[simp] theorem enqueue_events (b : Batch) (s : State) :
    (enqueue b s).events = s.events := rfl
@[simp] theorem enqueue_draws (b : Batch) (s : State) :
    (enqueue b s).draws = s.draws := rfl

/-! ### `stopMotion` -/

@[simp] theorem stopMotion_cfg (s : State) :
    (stopMotion s).cfg = s.cfg := rfl
@[simp] theorem stopMotion_blk (s : State) :
    (stopMotion s).blk = s.blk := rfl
@[simp] theorem stopMotion_ckAcc (s : State) :
    (stopMotion s).ckAcc = s.ckAcc := rfl
@[simp] theorem stopMotion_self (s : State) :
    (stopMotion s).self = s.self := rfl
@[simp] theorem stopMotion_fs (s : State) :
    (stopMotion s).fs = s.fs := rfl
@[simp] theorem stopMotion_pbuf (s : State) :
    (stopMotion s).pbuf = s.pbuf := rfl
@[simp] theorem stopMotion_sch (s : State) :
    (stopMotion s).sch = { s.sch with queue := [], next := some stopBatch } := rfl
@[simp] theorem stopMotion_pid (s : State) :
    (stopMotion s).pid = s.pid := rfl
@[simp] theorem stopMotion_rnd (s : State) :
    (stopMotion s).rnd = s.rnd := rfl
@[simp] theorem stopMotion_port (s : State) :
    (stopMotion s).port = s.port := rfl
@[simp] theorem stopMotion_res (s : State) :
    (stopMotion s).res = s.res := rfl
@[simp] theorem stopMotion_events (s : State) :
    (stopMotion s).events = s.events := rfl
@[simp] theorem stopMotion_draws (s : State) :
    (stopMotion s).draws = s.draws := rfl

/-! ### `rxSizeHi` -/

@[simp] theorem rxSizeHi_cfg (b : Byte) (s : State) :
    (rxSizeHi b s).cfg = s.cfg := rfl
@[simp] theorem rxSizeHi_blk (b : Byte) (s : State) :
    (rxSizeHi b s).blk = s.blk := rfl
@[simp] theorem rxSizeHi_ckAcc (b : Byte) (s : State) :
    (rxSizeHi b s).ckAcc = s.ckAcc := rfl
@[simp] theorem rxSizeHi_self (b : Byte) (s : State) :
    (rxSizeHi b s).self = s.self := rfl
@[simp] theorem rxSizeHi_fs (b : Byte) (s : State) :
    (rxSizeHi b s).fs = classify s.cfg (isSelf s s.fs.addr)
      { s.fs with size := s.fs.size ||| (b.setWidth 16 <<< 8) } := rfl
@[simp] theorem rxSizeHi_pbuf (b : Byte) (s : State) :
    (rxSizeHi b s).pbuf = s.pbuf := rfl
@[simp] theorem rxSizeHi_sch (b : Byte) (s : State) :
    (rxSizeHi b s).sch = s.sch := rfl
@[simp] theorem rxSizeHi_pid (b : Byte) (s : State) :
    (rxSizeHi b s).pid = s.pid := rfl
@[simp] theorem rxSizeHi_rnd (b : Byte) (s : State) :
    (rxSizeHi b s).rnd = s.rnd := rfl
@[simp] theorem rxSizeHi_port (b : Byte) (s : State) :
    (rxSizeHi b s).port = s.port := rfl
@[simp] theorem rxSizeHi_res (b : Byte) (s : State) :
    (rxSizeHi b s).res = s.res := rfl
@[simp] theorem rxSizeHi_events (b : Byte) (s : State) :
    (rxSizeHi b s).events = s.events := rfl
@[simp] theorem rxSizeHi_draws (b : Byte) (s : State) :
    (rxSizeHi b s).draws = s.draws := rfl

end Sys2Proof.Machine
end

