-- ==== Sys2Proof/Laws/Ops.lean ====
section
/-! SUPPORT. What each shared operation can do, said once: `commit`, the gates, replies. A proof cites
these and does not unfold the gates. -/

namespace Sys2Proof.Machine

/-! ### `commit` -/

@[simp] theorem commit_ok (s t : State) : commit s (.ok t) = .next t := rfl

@[simp] theorem commit_raise (s : State) (info : FaultInfo) :
    commit s (.error (.raise info)) = .next (s.raise info) := rfl

@[simp] theorem commit_fault (s : State) (f : Fault) : commit s (.error (.fault f)) = .fault f := rfl

@[simp] theorem commit_refused (s : State) (r : Refusal) :
    commit s (.error (.refused r)) = .refused r := rfl

/-- Everything `commit` can do when it answers a next state. -/
theorem commit_next {s t : State} {body : Body State} (h : commit s body = .next t) :
    body = .ok t ∨ ∃ info, body = .error (.raise info) ∧ t = s.raise info := by
  unfold commit at h
  split at h
  · cases h; exact .inl rfl
  · cases h; exact .inr ⟨_, rfl, rfl⟩
  · cases h
  · cases h

/-! ### The gate of the configuration -/

/-- With the PID strategy a configuration has every operation (R130). -/
theorem keeps_of_pid {c : Config} (h : c.strategy = .pid) (a : Bool) : c.keeps a = true := by
  simp [Config.keeps, h]

/-- Every configuration has the answer to set-coefficients (R130). -/
@[simp] theorem keeps_true (c : Config) : c.keeps true = true := by
  unfold Config.keeps
  split <;> rfl

theorem configGate_kept {c : Config} {a : Bool} {run : Host.Outcome State Fault Refusal}
    (hc : c.ok = true) (hk : c.keeps a = true) : configGate c a run = run := by
  simp [configGate, hc, hk]

theorem configGate_badConfig {c : Config} {a : Bool} {run : Host.Outcome State Fault Refusal}
    (hc : c.ok = false) : configGate c a run = .refused .badConfig := by
  simp [configGate, hc]

/-- With STRATEGY = PULSE everything but the answer to set-coefficients is refused (R130). -/
theorem configGate_pulse {c : Config} {run : Host.Outcome State Fault Refusal} (hc : c.ok = true)
    (hp : c.strategy = .pulse) : configGate c false run = .refused .pulseStrategy := by
  simp [configGate, hc, Config.keeps, hp]

/-- Everything the gate of the configuration can do when it answers a next state. -/
theorem configGate_next {c : Config} {a : Bool} {run : Host.Outcome State Fault Refusal} {t : State}
    (h : configGate c a run = .next t) : c.ok = true ∧ c.keeps a = true ∧ run = .next t := by
  unfold configGate at h
  split at h
  · split at h
    · exact ⟨‹_›, ‹_›, h⟩
    · cases h
  · cases h

theorem pidOnly_pid {α : Type} {s : State} {body : Body α} (h : s.cfg.strategy = .pid) :
    pidOnly s body = body := by
  simp [pidOnly, Config.keeps, h]

theorem pidOnly_pulse {α : Type} {s : State} {body : Body α} (h : s.cfg.strategy = .pulse) :
    pidOnly s body = .error (.refused .pulseStrategy) := by
  simp [pidOnly, Config.keeps, h]

/-- A service or reply that completes has the PID strategy. -/
theorem pidOnly_ok {α : Type} {s : State} {body : Body α} {a : α} (h : pidOnly s body = .ok a) :
    s.cfg.strategy = .pid ∧ body = .ok a := by
  cases hs : s.cfg.strategy with
  | pid => exact ⟨rfl, (pidOnly_pid hs).symm.trans h⟩
  | pulse => rw [pidOnly_pulse hs] at h; cases h

/-! ### The mode gate -/

/-- In RUN every operation of the map but an internal one executes (R140). -/
theorem modeGate_run {op : Byte} {s : State} {body : Body State} {k : OpClass}
    (hm : s.blk.mode = .run) (hop : opClass op = some k) (hk : k ≠ .internal) :
    modeGate op s body = commit s body := by
  unfold modeGate
  rw [hm]
  cases k <;> simp_all

/-- In BOOT the checksum and receive operations and BLK.BOOT execute (R140). -/
theorem modeGate_boot {op : Byte} {s : State} {body : Body State} {k : OpClass}
    (hm : s.blk.mode = .boot) (hop : opClass op = some k)
    (hk : k = .boot ∨ k = .checksum ∨ k = .receive) : modeGate op s body = commit s body := by
  unfold modeGate
  rw [hm]
  rcases hk with rfl | rfl | rfl <;> simp [hop]

/-- Operations that execute in BOOT and RUN execute unless the block is halted. -/
theorem modeGate_notHalted {op : Byte} {s : State} {body : Body State} {k : OpClass}
    (hm : s.blk.mode ≠ .halted) (hop : opClass op = some k)
    (hk : k = .boot ∨ k = .checksum ∨ k = .receive) : modeGate op s body = commit s body := by
  cases hmode : s.blk.mode with
  | boot => exact modeGate_boot hmode hop hk
  | run => exact modeGate_run hmode hop (by rcases hk with rfl | rfl | rfl <;> simp)
  | halted => exact absurd hmode hm

/-- In HALTED no operation has a step (R140). -/
theorem modeGate_halted {op : Byte} {s : State} {body : Body State} (hm : s.blk.mode = .halted) :
    modeGate op s body = .fault .halted := by
  unfold modeGate
  rw [hm]

/-- Everything the mode gate can do when it answers a next state: the body ran or raised; the gate
raised IllegalOp or Refused(before boot); an agent's offer lapsed. -/
theorem modeGate_next {op : Byte} {s t : State} {body : Body State}
    (h : modeGate op s body = .next t) :
    s.blk.mode ≠ .halted ∧
      (body = .ok t ∨
      (∃ info, body = .error (.raise info) ∧ t = s.raise info) ∨
      (t = s.raise (.illegalOp op) ∧ (opClass op = none ∨
        (opClass op = some .internal ∧ s.blk.mode = .run ∧ s.cfg.portInternal = false))) ∨
      (t = s.raise (.refused .beforeBoot) ∧ s.blk.mode = .boot ∧
        (opClass op = some .external ∨ opClass op = some .internal)) ∨
      (t = s ∧ s.blk.mode = .boot ∧ opClass op = some .agent)) := by
  unfold modeGate at h
  cases hmode : s.blk.mode with
  | halted => simp [hmode] at h
  | boot =>
    refine ⟨by simp, ?_⟩
    simp only [hmode] at h
    split at h <;> rename_i hop
    · exact (commit_next h).imp id .inl
    · exact (commit_next h).imp id .inl
    · exact (commit_next h).imp id .inl
    · cases h
      exact .inr (.inr (.inr (.inr ⟨rfl, rfl, hop⟩)))
    · cases h
      exact .inr (.inr (.inr (.inl ⟨rfl, rfl, .inl hop⟩)))
    · cases h
      exact .inr (.inr (.inr (.inl ⟨rfl, rfl, .inr hop⟩)))
    · cases h
      exact .inr (.inr (.inl ⟨rfl, .inl hop⟩))
  | run =>
    refine ⟨by simp, ?_⟩
    simp only [hmode] at h
    split at h <;> rename_i hop
    · split at h
      · exact (commit_next h).imp id .inl
      · rename_i hi
        cases h
        exact .inr (.inr (.inl ⟨rfl, .inr ⟨hop, rfl, by simpa using hi⟩⟩))
    · cases h
      exact .inr (.inr (.inl ⟨rfl, .inl hop⟩))
    · exact (commit_next h).imp id .inl
    · exact (commit_next h).imp id .inl
    · exact (commit_next h).imp id .inl
    · exact (commit_next h).imp id .inl
    · exact (commit_next h).imp id .inl

/-! ### Both gates of a port operation -/

/-- With the PID strategy the gate of the configuration lets every operation through to the mode gate. -/
theorem portGate_defined {op : Byte} {s : State} {body : Body State} (h : s.defined) :
    portGate op s body = modeGate op s body :=
  configGate_kept h.1 (keeps_of_pid h.2 _)

/-- An operation on the way of set-coefficients reaches the mode gate with either strategy (R130). -/
theorem portGate_answer {op : Byte} {s : State} {body : Body State} (hc : s.cfg.ok = true)
    (ho : answersSetcoef op = true) : portGate op s body = modeGate op s body := by
  unfold portGate
  rw [ho]
  exact configGate_kept hc (keeps_true _)

theorem portGate_run {op : Byte} {s : State} {body : Body State} {k : OpClass} (h : s.running)
    (hop : opClass op = some k) (hk : k ≠ .internal) : portGate op s body = commit s body :=
  (portGate_defined ⟨h.1.1, h.2⟩).trans (modeGate_run h.1.2 hop hk)

/-- An internal operation executes where the port accepts it (R70). -/
theorem portGate_internal {op : Byte} {s : State} {body : Body State} (h : s.internalPort)
    (hop : opClass op = some .internal) : portGate op s body = commit s body := by
  obtain ⟨⟨⟨hc, hm⟩, hs⟩, hi⟩ := h
  rw [portGate_defined ⟨hc, hs⟩]
  simp [modeGate, hm, hop, hi]

theorem portGate_notHalted {op : Byte} {s : State} {body : Body State} {k : OpClass}
    (h : s.notHalted) (hop : opClass op = some k)
    (hk : k = .boot ∨ k = .checksum ∨ k = .receive) : portGate op s body = commit s body :=
  (portGate_defined h.1).trans (modeGate_notHalted h.2 hop hk)

/-- In HALTED no operation has a step (R140). -/
theorem portGate_halted {op : Byte} {s : State} {body : Body State} (h : s.defined)
    (hm : s.blk.mode = .halted) : portGate op s body = .fault .halted :=
  (portGate_defined h).trans (modeGate_halted hm)

/-- A configuration without a meaning is refused (R10). -/
theorem portGate_badConfig {op : Byte} {s : State} {body : Body State} (hc : s.cfg.ok = false) :
    portGate op s body = .refused .badConfig :=
  configGate_badConfig hc

/-- With STRATEGY = PULSE an operation that is not on the way of set-coefficients is refused, in every mode
(R130). -/
theorem portGate_pulse {op : Byte} {s : State} {body : Body State} (hc : s.cfg.ok = true)
    (hp : s.cfg.strategy = .pulse) (ho : answersSetcoef op = false) :
    portGate op s body = .refused .pulseStrategy := by
  unfold portGate
  rw [ho]
  exact configGate_pulse hc hp

/-- An external or internal operation before boot (R140). -/
theorem portGate_beforeBoot {op : Byte} {s : State} {body : Body State} (h : s.defined)
    (hm : s.blk.mode = .boot) (hop : opClass op = some .external ∨ opClass op = some .internal) :
    portGate op s body = .next (s.raise (.refused .beforeBoot)) := by
  rw [portGate_defined h]
  unfold modeGate
  rw [hm]
  rcases hop with hop | hop <;> simp [hop]

/-- An agent's operation before boot has no step: the offer lapses (R140; log 7). -/
theorem portGate_agentBoot {op : Byte} {s : State} {body : Body State} (h : s.defined)
    (hm : s.blk.mode = .boot) (hop : opClass op = some .agent) : portGate op s body = .next s := by
  rw [portGate_defined h]
  simp [modeGate, hm, hop]

/-- An internal operation the port does not accept (R143). -/
theorem portGate_notInternal {op : Byte} {s : State} {body : Body State} (h : s.running)
    (hop : opClass op = some .internal) (hi : s.cfg.portInternal = false) :
    portGate op s body = .next (s.raise (.illegalOp op)) := by
  obtain ⟨⟨hc, hm⟩, hs⟩ := h
  rw [portGate_defined ⟨hc, hs⟩]
  simp [modeGate, hm, hop, hi]

/-- An opcode outside the map (R143). -/
theorem portGate_illegal {op : Byte} {s : State} {body : Body State} (h : s.notHalted)
    (hop : opClass op = none) : portGate op s body = .next (s.raise (.illegalOp op)) := by
  rw [portGate_defined h.1]
  unfold modeGate
  cases hmode : s.blk.mode with
  | boot => simp [hop]
  | run => simp [hop]
  | halted => exact absurd hmode h.2

/-- Everything the gates can do when they answer a next state. -/
theorem portGate_next {op : Byte} {s t : State} {body : Body State}
    (h : portGate op s body = .next t) :
    s.cfg.ok = true ∧ s.cfg.keeps (answersSetcoef op) = true ∧ s.blk.mode ≠ .halted ∧
      (body = .ok t ∨
      (∃ info, body = .error (.raise info) ∧ t = s.raise info) ∨
      (t = s.raise (.illegalOp op) ∧ (opClass op = none ∨
        (opClass op = some .internal ∧ s.blk.mode = .run ∧ s.cfg.portInternal = false))) ∨
      (t = s.raise (.refused .beforeBoot) ∧ s.blk.mode = .boot ∧
        (opClass op = some .external ∨ opClass op = some .internal)) ∨
      (t = s ∧ s.blk.mode = .boot ∧ opClass op = some .agent)) :=
  have ⟨hc, hk, hm⟩ := configGate_next h
  ⟨hc, hk, modeGate_next hm⟩

/-! ### The gate of a wire request -/

/-- In RUN the gate of a wire request runs the service (R158). -/
theorem wireGate_run {s : State} {body : Body State} (h : s.inRun) :
    wireGate s body = commit s body := by
  simp [wireGate, configGate, h.1, h.2]

/-- Everything the gate of a wire request can do when it answers a next state. -/
theorem wireGate_next {s t : State} {body : Body State} (h : wireGate s body = .next t) :
    s.cfg.ok = true ∧
      ((s.blk.mode = .boot ∧ t = s) ∨
      (s.blk.mode = .run ∧
        (body = .ok t ∨ ∃ info, body = .error (.raise info) ∧ t = s.raise info))) := by
  obtain ⟨hc, -, h⟩ := configGate_next h
  refine ⟨hc, ?_⟩
  split at h <;> rename_i hm
  · cases h
  · cases h
    exact .inl ⟨hm, rfl⟩
  · exact .inr ⟨hm, commit_next h⟩

theorem wireGate_halted {s : State} {body : Body State} (hc : s.cfg.ok = true)
    (hm : s.blk.mode = .halted) : wireGate s body = .fault .halted := by
  simp [wireGate, configGate, hc, hm]

theorem wireGate_badConfig {s : State} {body : Body State} (hc : s.cfg.ok = false) :
    wireGate s body = .refused .badConfig :=
  configGate_badConfig hc

/-! ### Replies -/

/-- A board with an identity answers, unless the request was a broadcast (R99). -/
theorem reply_known {s : State} {id : Identity} (t : Byte) (p : List Byte)
    (h : s.self = .known id) : reply t p s = .ok (answered id t p s) := by
  unfold reply answered
  split <;> simp [h]

theorem replyError_known {s : State} {id : Identity} (code : U16) (h : s.self = .known id) :
    replyError code s = .ok (answered id s.cfg.mtError (bytesLe16 code) s) :=
  reply_known _ _ h

/-- Everything a reply can do: it emits at most one frame, and nothing else. -/
theorem reply_cases {s t : State} {ty : Byte} {p : List Byte} (h : reply ty p s = .ok t) :
    t = s ∨ ∃ bytes, t = s.emit (.tx bytes) := by
  unfold reply at h
  split at h
  · cases h; exact .inl rfl
  · split at h
    · cases h; exact .inr ⟨_, rfl⟩
    · cases h
    · cases h

/-- A reply never raises a fault of the block. -/
theorem reply_not_raise {s : State} {ty : Byte} {p : List Byte} {info : FaultInfo} :
    reply ty p s ≠ .error (.raise info) := by
  unfold reply
  split
  · simp
  · split <;> simp

@[simp] theorem answered_cfg (id : Identity) (ty : Byte) (p : List Byte) (s : State) :
    (answered id ty p s).cfg = s.cfg := by unfold answered; split <;> rfl

@[simp] theorem answered_sch (id : Identity) (ty : Byte) (p : List Byte) (s : State) :
    (answered id ty p s).sch = s.sch := by unfold answered; split <;> rfl

@[simp] theorem answered_pid (id : Identity) (ty : Byte) (p : List Byte) (s : State) :
    (answered id ty p s).pid = s.pid := by unfold answered; split <;> rfl

@[simp] theorem answered_fs (id : Identity) (ty : Byte) (p : List Byte) (s : State) :
    (answered id ty p s).fs = s.fs := by unfold answered; split <;> rfl

@[simp] theorem answered_pbuf (id : Identity) (ty : Byte) (p : List Byte) (s : State) :
    (answered id ty p s).pbuf = s.pbuf := by unfold answered; split <;> rfl

@[simp] theorem answered_blk (id : Identity) (ty : Byte) (p : List Byte) (s : State) :
    (answered id ty p s).blk = s.blk := by unfold answered; split <;> rfl

/-! ### Fetch -/

/-- The fetch of a command the decoder reads. -/
theorem fetch_instr {s : State} {c : Command} {rest : List Command} {i : Instr}
    (hp : s.port = c :: rest) (hd : decodePort c = .ok i) :
    fetch s = .instr i (s.withPort rest) := by
  simp [fetch, hp, hd]

end Sys2Proof.Machine
end

