-- ==== Sys2Proof/Laws/Exec.lean ====
section
/-! SUPPORT. exec, said once: every instruction is a gate around a body. A statement over all instructions
takes exec apart with `exec_next` and then needs one fact about each body. -/

namespace Sys2Proof.Machine

/-- The opcode of a port operation (R70); `none` for a wire request or a diagnostic code. -/
def opcodeOf : Instr → Option Byte
  | .blkBoot _ => some 0x01
  | .ckReset => some 0x10
  | .ckUpdate _ => some 0x11
  | .ckUpdateMany _ => some 0x12
  | .ckValue => some 0x13
  | .fsStart => some 0x20
  | .fsRxbyte _ => some 0x21
  | .fsTimeout => some 0x22
  | .fsIsSelf _ => some 0x23
  | .schTimer => some 0x30
  | .schTick _ => some 0x31
  | .schEnqueue _ => some 0x32
  | .schStop => some 0x33
  | .schCurpos => some 0x34
  | .pidSetcoef _ _ _ => some 0x40
  | .pidSetsp _ => some 0x41
  | .pidUpdate _ => some 0x42
  | .rndReset => some 0x48
  | .rndBefore => some 0x49
  | .rndCompute _ => some 0x4A
  | .rndAfter => some 0x4B
  | .rndFilter _ => some 0x4C
  | .mtPing => none
  | .mtSelftest => none
  | .mtReadvalue => none
  | .mtSetcoeff => none
  | .mtSetbatch => none
  | .mtSleep => none
  | .mtError => none
  | .diagPing => none
  | .diagSelftest => none
  | .diagValue => none

/-- The body of each instruction, behind its gate. -/
def bodyOf : Instr → State → Body State
  | .blkBoot strap, s => bootOnce strap s
  | .ckReset, s => .ok { s with ckAcc := s.cfg.ckInit }
  | .ckUpdate b, s => .ok { s with ckAcc := crcStep s.cfg s.ckAcc b }
  | .ckUpdateMany bs, s => .ok { s with ckAcc := crcMany s.cfg s.ckAcc bs }
  | .ckValue, s => .ok (s.setRes (crcValue s.cfg s.ckAcc))
  | .fsStart, s => .ok (startReceiver s)
  | .fsRxbyte b, s => rxByte b s
  | .fsTimeout, s => .ok (readTimeout s)
  | .fsIsSelf a, s => .ok (s.setRes (resBool (isSelf s a)))
  | .schTimer, s => .ok { s with sch := { s.sch with tickPending := true } }
  | .schTick p, s => pendingTick p s
  | .schEnqueue b, s => .ok ((enqueue b s).setRes (resI16 (enqueueStatus b s)))
  | .schStop, s => .ok (stopMotion s)
  | .schCurpos, s => .ok (s.setRes s.rnd.pos)
  | .pidSetcoef kp ki kd, s =>
    .ok ((setCoefficients kp ki kd s).1.setRes (resI16 (setCoefficients kp ki kd s).2))
  | .pidSetsp t, s =>
    .ok ({ s with pid := setSetpoint s.cfg t s.pid }.setRes (setSetpoint s.cfg t s.pid).sp)
  | .pidUpdate pos, s =>
    .ok ({ s with pid := pidAfterUpdate s.cfg pos s.pid }.setRes (pidOutput s.cfg pos s.pid))
  | .rndReset, s => .ok (renderReset s)
  | .rndBefore, s => .ok (renderBefore s)
  | .rndCompute raw, s => .ok (computeWithResult raw s)
  | .rndAfter, s => .ok (renderAfter s)
  | .rndFilter p, s => .ok { s with rnd := filterSample s.cfg p s.rnd }
  | .mtPing, s => servePing s
  | .mtSelftest, s => serveSelftest s
  | .mtReadvalue, s => serveReadvalue s
  | .mtSetcoeff, s => serveSetcoeff s
  | .mtSetbatch, s => serveSetbatch s
  | .mtSleep, s => serveSleep s
  | .mtError, s => serveUnknown s
  | .diagPing, s => serveDiagPing s
  | .diagSelftest, s => serveDiagSelftest s
  | .diagValue, s => serveDiagValue s

/-- A gate around a body: the port's, or that of a wire request. -/
def gated (op : Option Byte) (s : State) (body : Body State) : Host.Outcome State Fault Refusal :=
  match op with
  | some op => portGate op s body
  | none => wireGate s body

/-- exec is a gate around a body. -/
theorem exec_eq (i : Instr) (s : State) : exec i s = gated (opcodeOf i) s (bodyOf i s) := by
  cases i <;> rfl

/-- Everything exec can do when it answers a next state: the body ran or raised; the gate raised; or
nothing happened, in BOOT. -/
theorem exec_next {i : Instr} {s t : State} (h : exec i s = .next t) :
    s.cfg.ok = true ∧ s.blk.mode ≠ .halted ∧
      (bodyOf i s = .ok t ∨
      (∃ info, bodyOf i s = .error (.raise info) ∧ t = s.raise info) ∨
      (∃ op, opcodeOf i = some op ∧ t = s.raise (.illegalOp op) ∧ (opClass op = none ∨
        (opClass op = some .internal ∧ s.blk.mode = .run ∧ s.cfg.portInternal = false))) ∨
      (t = s.raise (.refused .beforeBoot) ∧ s.blk.mode = .boot) ∨
      (t = s ∧ s.blk.mode = .boot)) := by
  rw [exec_eq] at h
  unfold gated at h
  split at h
  · rename_i op hop
    obtain ⟨hc, -, hm, hb | hb | ⟨ht, hb⟩ | ⟨ht, hb, -⟩ | ⟨ht, hb, -⟩⟩ := portGate_next h
    · exact ⟨hc, hm, .inl hb⟩
    · exact ⟨hc, hm, .inr (.inl hb)⟩
    · exact ⟨hc, hm, .inr (.inr (.inl ⟨op, hop, ht, hb⟩))⟩
    · exact ⟨hc, hm, .inr (.inr (.inr (.inl ⟨ht, hb⟩)))⟩
    · exact ⟨hc, hm, .inr (.inr (.inr (.inr ⟨ht, hb⟩)))⟩
  · obtain ⟨hc, ⟨hm, ht⟩ | ⟨hm, hb⟩⟩ := wireGate_next h
    · exact ⟨hc, by simp [hm], .inr (.inr (.inr (.inr ⟨ht, hm⟩)))⟩
    · exact ⟨hc, by simp [hm], hb.imp id .inl⟩

/-- The opcode of every port operation is in the map (R70). -/
theorem opcodeOf_mapped {i : Instr} {op : Byte} (h : opcodeOf i = some op) : opClass op ≠ none := by
  cases i <;> simp only [opcodeOf, Option.some.injEq, reduceCtorEq] at h <;> subst h <;> decide

/-- In HALTED exec has no step (R140). -/
theorem exec_halted (i : Instr) {s : State} (hd : s.defined) (hm : s.blk.mode = .halted) :
    exec i s = .fault .halted := by
  rw [exec_eq]
  unfold gated
  split
  · exact portGate_halted hd hm
  · exact wireGate_halted hd.1 hm

/-- A configuration without a meaning is refused (R10). -/
theorem exec_badConfig (i : Instr) {s : State} (hc : s.cfg.ok = false) :
    exec i s = .refused .badConfig := by
  rw [exec_eq]
  unfold gated
  split
  · exact portGate_badConfig hc
  · exact wireGate_badConfig hc

/-- With STRATEGY = PULSE a port operation that is not on the way of set-coefficients is refused (R130). -/
theorem exec_pulse {i : Instr} {op : Byte} {s : State} (hc : s.cfg.ok = true)
    (hp : s.cfg.strategy = .pulse) (hop : opcodeOf i = some op) (ho : answersSetcoef op = false) :
    exec i s = .refused .pulseStrategy := by
  rw [exec_eq]
  simp only [gated, hop]
  exact portGate_pulse hc hp ho

/-- An operation on the way of set-coefficients that is not internal runs its body in RUN with either
strategy (R130). -/
theorem exec_answer {i : Instr} {op : Byte} {s : State} {k : OpClass} (h : s.inRun)
    (hop : opcodeOf i = some op) (ho : answersSetcoef op = true) (hk : opClass op = some k)
    (hi : k ≠ .internal) : exec i s = commit s (bodyOf i s) := by
  rw [exec_eq]
  simp only [gated, hop]
  rw [portGate_answer h.1 ho]
  exact modeGate_run h.2 hk hi

/-- A wire request or a diagnostic code runs its body in RUN with either strategy. -/
theorem exec_wire {i : Instr} {s : State} (h : s.inRun) (hop : opcodeOf i = none) :
    exec i s = commit s (bodyOf i s) := by
  rw [exec_eq]
  simp only [gated, hop]
  exact wireGate_run h

/-- An external or agent operation of the port, and every wire request, runs its body in RUN. -/
theorem exec_running {i : Instr} {s : State} (h : s.running)
    (hi : ∀ op, opcodeOf i = some op → opClass op ≠ some .internal) :
    exec i s = commit s (bodyOf i s) := by
  rw [exec_eq]
  unfold gated
  split
  · rename_i op hop
    obtain ⟨k, hk⟩ := Option.ne_none_iff_exists'.mp (opcodeOf_mapped hop)
    exact portGate_run h hk (fun e => hi op hop (e ▸ hk))
  · exact wireGate_run h.1

/-- An internal operation runs its body where the port accepts it. -/
theorem exec_internal {i : Instr} {s : State} (h : s.internalPort) :
    exec i s = commit s (bodyOf i s) := by
  rw [exec_eq]
  unfold gated
  split
  · rename_i op hop
    obtain ⟨k, hk⟩ := Option.ne_none_iff_exists'.mp (opcodeOf_mapped hop)
    by_cases hi : k = .internal
    · exact portGate_internal h (hi ▸ hk)
    · exact portGate_run h.1 hk hi
  · exact wireGate_run h.1.1

end Sys2Proof.Machine
end

