-- ==== Sys2Proof/Laws/Service.lean ====
section
/-! SUPPORT. What the service routine can write, said once for every service (R98 to R108), and that it never
raises a fault of the block. -/

namespace Sys2Proof.Machine

/-- A body that answers `.ok` of a bind answered `.ok` before. -/
theorem body_bind {α β : Type} {x : Body α} {f : α → Body β} {t : β} (h : (x >>= f) = .ok t) :
    ∃ a, x = .ok a ∧ f a = .ok t := by
  cases x with
  | ok a => exact ⟨a, rfl, h⟩
  | error e => cases h

@[simp] theorem body_ok_bind {α β : Type} (a : α) (f : α → Body β) :
    ((.ok a : Body α) >>= f) = f a := rfl

@[simp] theorem body_error_bind {α β : Type} (e : Halt) (f : α → Body β) :
    ((.error e : Body α) >>= f) = .error e := rfl

/-- What a service leaves as it was, and what it can write: coefficients, the queue and the next slot, the
draw counter, and at most one transmission. -/
structure ServiceFrame (s t : State) : Prop where
  cfg : t.cfg = s.cfg
  blk : t.blk = s.blk
  ckAcc : t.ckAcc = s.ckAcc
  self : t.self = s.self
  fs : t.fs = s.fs
  pbuf : t.pbuf = s.pbuf
  rnd : t.rnd = s.rnd
  port : t.port = s.port
  res : t.res = s.res
  pid : t.pid = { s.pid with kp := t.pid.kp, ki := t.pid.ki, kd := t.pid.kd }
  sch : t.sch = { s.sch with queue := t.sch.queue, next := t.sch.next }
  events : t.events = s.events ∨ ∃ bytes, t.events = s.events ++ [.tx bytes]

theorem ServiceFrame.refl (s : State) : ServiceFrame s s := by constructor <;> first | rfl | exact .inl rfl

/-- A frame that transmits nothing, followed by a reply. -/
theorem ServiceFrame.then_reply {s u t : State} {ty : Byte} {p : List Byte} (h : ServiceFrame s u)
    (he : u.events = s.events) (hr : reply ty p u = .ok t) : ServiceFrame s t := by
  obtain rfl | ⟨bytes, rfl⟩ := reply_cases hr
  · exact h
  · obtain ⟨h1, h2, h3, h4, h5, h6, h7, h8, h9, h10, h11, -⟩ := h
    exact ⟨h1, h2, h3, h4, h5, h6, h7, h8, h9, h10, h11, .inr ⟨bytes, by simp [he]⟩⟩

/-- Offering a batch is a frame. -/
theorem ServiceFrame.enqueue (b : Batch) (s : State) : ServiceFrame s (enqueue b s) := by
  constructor <;> first | rfl | exact .inl rfl

theorem ServiceFrame.stop (s : State) : ServiceFrame s (stopMotion s) := by
  constructor <;> first | rfl | exact .inl rfl

theorem ServiceFrame.draw (s : State) : ServiceFrame s s.countDraw := by
  constructor <;> first | rfl | exact .inl rfl

theorem ServiceFrame.coefficients (kp ki kd : F32) (s : State) :
    ServiceFrame s (setCoefficients kp ki kd s).1 := by
  unfold setCoefficients
  split
  · constructor <;> first | rfl | exact .inl rfl
  · exact .refl s

/-- Loading coefficients keeps the rest of the PID registers (R125). -/
theorem setCoefficients_cases (kp ki kd : F32) (s : State) :
    ∃ p, (setCoefficients kp ki kd s).1 = { s with pid := p } ∧
      p = { s.pid with kp := p.kp, ki := p.ki, kd := p.kd } := by
  unfold setCoefficients
  split <;> exact ⟨_, rfl, rfl⟩

theorem setCoefficients_events (kp ki kd : F32) (s : State) :
    (setCoefficients kp ki kd s).1.events = s.events := by
  unfold setCoefficients
  split <;> rfl

/-! ### Each service -/

theorem servePing_frame {s t : State} (h : servePing s = .ok t) : ServiceFrame s t :=
  (ServiceFrame.refl s).then_reply rfl (pidOnly_ok h).2

theorem serveSelftest_frame {s t : State} (h : serveSelftest s = .ok t) : ServiceFrame s t :=
  (ServiceFrame.enqueue _ s).then_reply rfl (pidOnly_ok h).2

theorem serveReadvalue_frame {s t : State} (h : serveReadvalue s = .ok t) : ServiceFrame s t :=
  (ServiceFrame.draw s).then_reply rfl (pidOnly_ok h).2

theorem serveSleep_frame {s t : State} (h : serveSleep s = .ok t) : ServiceFrame s t :=
  (ServiceFrame.stop s).then_reply rfl (pidOnly_ok h).2

theorem serveUnknown_frame {s t : State} (h : serveUnknown s = .ok t) : ServiceFrame s t :=
  (ServiceFrame.refl s).then_reply rfl (pidOnly_ok h).2

theorem serveSetcoeff_frame {s t : State} (h : serveSetcoeff s = .ok t) : ServiceFrame s t := by
  unfold serveSetcoeff at h
  split at h
  · exact (ServiceFrame.refl s).then_reply rfl h
  · obtain ⟨kp, -, h⟩ := body_bind h
    obtain ⟨ki, -, h⟩ := body_bind h
    obtain ⟨kd, -, h⟩ := body_bind h
    unfold replyToSetcoeff at h
    split at h <;>
      exact (ServiceFrame.coefficients kp ki kd s).then_reply (setCoefficients_events kp ki kd s) h

theorem offerPayload_frame {s t : State} (h : offerPayload s = .ok t) : ServiceFrame s t := by
  unfold offerPayload at h
  split at h
  · exact (ServiceFrame.refl s).then_reply rfl h
  · obtain ⟨n, -, h⟩ := body_bind h
    split at h
    · exact (ServiceFrame.refl s).then_reply rfl h
    · obtain ⟨b, -, h⟩ := body_bind h
      unfold replyToSetbatch at h
      split at h <;> exact (ServiceFrame.enqueue b s).then_reply rfl h

theorem serveSetbatch_frame {s t : State} (h : serveSetbatch s = .ok t) : ServiceFrame s t :=
  offerPayload_frame (pidOnly_ok h).2

/-- Everything the service routine can write (R98). -/
theorem service_frame {s t : State} (h : service s = .ok t) : ServiceFrame s t := by
  unfold service at h
  split at h
  · exact servePing_frame h
  split at h
  · exact serveSelftest_frame h
  split at h
  · exact serveReadvalue_frame h
  split at h
  · exact serveSetcoeff_frame h
  split at h
  · exact serveSetbatch_frame h
  split at h
  · exact serveSleep_frame h
  · exact serveUnknown_frame h

/-! ### No service raises a fault of the block (R39, R142) -/

/-- A body that raises no fault of the block. -/
def NoRaise {α : Type} (x : Body α) : Prop := ∀ info, x ≠ .error (.raise info)

theorem NoRaise.ok {α : Type} (a : α) : NoRaise (.ok a : Body α) := by intro info h; cases h

theorem NoRaise.bind {α β : Type} {x : Body α} {f : α → Body β} (hx : NoRaise x)
    (hf : ∀ a, x = .ok a → NoRaise (f a)) : NoRaise (x >>= f) := by
  intro info h
  cases x with
  | ok a => exact hf a rfl info h
  | error e =>
    cases h
    exact hx info rfl

theorem NoRaise.pidOnly {α : Type} {s : State} {body : Body α} (h : NoRaise body) :
    NoRaise (pidOnly s body) := by
  unfold Machine.pidOnly
  split
  · exact h
  · intro info h; cases h

theorem NoRaise.reply (ty : Byte) (p : List Byte) (s : State) : NoRaise (reply ty p s) :=
  fun _ => reply_not_raise

/-- A read within the frame raises nothing (R39). -/
theorem NoRaise.memRead {s : State} {a n : Nat} (h : a + n ≤ s.fs.size.toNat) :
    NoRaise (memRead s a n) := by
  intro info hm
  unfold Machine.memRead at hm
  rw [if_neg (by omega)] at hm
  split at hm <;> cases hm

theorem NoRaise.memRead16 {s : State} {a : Nat} (h : a + 2 ≤ s.fs.size.toNat) :
    NoRaise (memRead16 s a) :=
  (NoRaise.memRead h).bind fun _ _ => .ok _

theorem NoRaise.memRead32 {s : State} {a : Nat} (h : a + 4 ≤ s.fs.size.toNat) :
    NoRaise (memRead32 s a) :=
  (NoRaise.memRead h).bind fun _ _ => .ok _

theorem NoRaise.readSetpoints {s : State} {a n : Nat} (h : a + 4 * n ≤ s.fs.size.toNat) :
    NoRaise (readSetpoints s a n) := by
  induction n generalizing a with
  | zero => exact .ok _
  | succ n ih =>
    unfold Machine.readSetpoints
    refine (NoRaise.memRead16 (by omega)).bind fun _ _ => ?_
    refine (NoRaise.memRead16 (by omega)).bind fun _ _ => ?_
    exact (ih (by omega)).bind fun _ _ => .ok _

theorem serveSetcoeff_noRaise (s : State) : NoRaise (serveSetcoeff s) := by
  unfold serveSetcoeff
  split
  · exact .reply _ _ _
  · rename_i h
    have h12 : s.fs.size.toNat = 12 := by
      have : s.fs.size = 12 := by simpa using h
      rw [this]; rfl
    refine (NoRaise.memRead32 (by omega)).bind fun _ _ => ?_
    refine (NoRaise.memRead32 (by omega)).bind fun _ _ => ?_
    refine (NoRaise.memRead32 (by omega)).bind fun _ _ => ?_
    unfold replyToSetcoeff
    split <;> exact .reply _ _ _

theorem offerPayload_noRaise (s : State) : NoRaise (offerPayload s) := by
  unfold offerPayload
  split
  · exact .reply _ _ _
  · refine (NoRaise.memRead16 (by omega)).bind fun n _ => ?_
    split
    · exact .reply _ _ _
    · refine NoRaise.bind ?_ fun b _ => ?_
      · refine (NoRaise.memRead16 (by omega)).bind fun _ _ => ?_
        refine (NoRaise.memRead16 (by omega)).bind fun _ _ => ?_
        exact (NoRaise.readSetpoints (by omega)).bind fun _ _ => .ok _
      · unfold replyToSetbatch
        split <;> exact .reply _ _ _

theorem serveSetbatch_noRaise (s : State) : NoRaise (serveSetbatch s) := (offerPayload_noRaise s).pidOnly

/-- The service routine raises no fault of the block. -/
theorem service_noRaise (s : State) : NoRaise (service s) := by
  unfold service
  split
  · exact (NoRaise.reply _ _ _).pidOnly
  split
  · exact (NoRaise.reply _ _ _).pidOnly
  split
  · exact (NoRaise.reply _ _ _).pidOnly
  split
  · exact serveSetcoeff_noRaise s
  split
  · exact serveSetbatch_noRaise s
  split
  · exact (NoRaise.reply _ _ _).pidOnly
  · exact (NoRaise.reply _ _ _).pidOnly

/-! ### Diagnostic codes -/

theorem serveDiagPing_frame {s t : State} (h : serveDiagPing s = .ok t) : ServiceFrame s t := by
  cases (pidOnly_ok h).2
  constructor <;> first | rfl | exact .inr ⟨_, rfl⟩

theorem serveDiagSelftest_frame {s t : State} (h : serveDiagSelftest s = .ok t) : ServiceFrame s t := by
  cases (pidOnly_ok h).2
  constructor <;> first | rfl | exact .inr ⟨_, rfl⟩

theorem serveDiagValue_frame {s t : State} (h : serveDiagValue s = .ok t) : ServiceFrame s t := by
  cases (pidOnly_ok h).2
  constructor <;> first | rfl | exact .inr ⟨_, rfl⟩

/-! ### The service routine by instruction -/

/-- The service routine runs the body of the instruction the type byte decodes to (R65, R98). -/
theorem service_of_type {s : State} {i : Instr} (h : decodeType s.cfg s.fs.type = some i)
    (hr : s.inRun) : commit s (service s) = exec i s := by
  unfold decodeType at h
  unfold service
  split at h
  · cases h; rename_i hb; rw [if_pos hb]; exact (wireGate_run hr).symm
  rename_i h1
  rw [if_neg h1]
  split at h
  · cases h; rename_i hb; rw [if_pos hb]; exact (wireGate_run hr).symm
  rename_i h2
  rw [if_neg h2]
  split at h
  · cases h; rename_i hb; rw [if_pos hb]; exact (wireGate_run hr).symm
  rename_i h3
  rw [if_neg h3]
  split at h
  · cases h; rename_i hb; rw [if_pos hb]; exact (wireGate_run hr).symm
  rename_i h4
  rw [if_neg h4]
  split at h
  · cases h; rename_i hb; rw [if_pos hb]; exact (wireGate_run hr).symm
  rename_i h5
  rw [if_neg h5]
  split at h
  · cases h; rename_i hb; rw [if_pos hb]; exact (wireGate_run hr).symm
  rename_i h6
  rw [if_neg h6]
  split at h
  · cases h; exact (wireGate_run hr).symm
  · cases h

end Sys2Proof.Machine
end

