-- ==== Sys2Proof/Laws/FrameSync.lean ====
section
/-! SUPPORT. What a received byte can do, said once (R88 to R94): it moves the receiver, or stores one byte of
payload, or runs a service with the receiver back in AWAIT_ADDR. -/

namespace Sys2Proof.Machine

/-- Everything a received byte can do. -/
inductive ReceiveCases (b : Byte) (s t : State) : Prop where
  | moved (f : FsRegs) : t = { s with fs := f } → ReceiveCases b s t
  | captured : s.fs.state = .payload → s.fs.count.toNat < s.cfg.maxPayload →
      t = { s with pbuf := Memory.write s.pbuf s.fs.count.toNat b, fs := countPayload s.fs } →
      ReceiveCases b s t
  | serviced (f : FsRegs) : s.fs.state ≠ .payload → ServiceFrame { s with fs := f } t →
      ReceiveCases b s t

theorem rxHeaderStart_cases (b : Byte) (s : State) : ReceiveCases b s (rxHeaderStart b s) := by
  unfold rxHeaderStart
  split
  · exact .moved s.fs rfl
  · exact .moved _ rfl

theorem rxAddress_cases {b : Byte} {s t : State} (hst : s.fs.state = .awaitAddr)
    (h : rxAddress b s = .ok t) : ReceiveCases b s t := by
  have hne : s.fs.state ≠ .payload := by simp [hst]
  unfold rxAddress at h
  split at h
  · split at h
    · exact .serviced s.fs hne (serveDiagPing_frame h)
    · split at h
      · exact .serviced s.fs hne (serveDiagSelftest_frame h)
      · split at h
        · exact .serviced s.fs hne (serveDiagValue_frame h)
        · cases h; exact rxHeaderStart_cases b s
  · cases h; exact rxHeaderStart_cases b s
  · cases h; exact rxHeaderStart_cases b s

theorem rxAddress_noRaise (b : Byte) (s : State) : NoRaise (rxAddress b s) := by
  unfold rxAddress
  split
  · split
    · exact (NoRaise.ok _).pidOnly
    · split
      · exact (NoRaise.ok _).pidOnly
      · split
        · exact (NoRaise.ok _).pidOnly
        · exact .ok _
  · exact .ok _
  · exact .ok _

theorem verifyFrame_cases {s t : State} (h : verifyFrame s = .ok t) :
    t = s ∨ ServiceFrame s t := by
  unfold verifyFrame at h
  obtain ⟨p, -, h⟩ := body_bind h
  split at h
  · exact .inr (service_frame h)
  · cases h; exact .inl rfl

theorem drainEnd_cases {s t : State} (h : drainEnd s = .ok t) : t = s ∨ ServiceFrame s t := by
  unfold drainEnd at h
  split at h
  · cases h; exact .inl rfl
  · split at h
    · cases h; exact .inl rfl
    · exact .inr ((ServiceFrame.refl s).then_reply rfl (pidOnly_ok h).2)

/-- Everything a received byte can do (R88 to R94). -/
theorem rxByte_cases {b : Byte} {s t : State} (h : rxByte b s = .ok t) : ReceiveCases b s t := by
  unfold rxByte at h
  split at h <;> rename_i hst
  · cases h; exact .moved s.fs rfl
  · exact rxAddress_cases hst h
  · cases h; exact .moved _ rfl
  · cases h; exact .moved _ rfl
  · cases h; exact .moved _ rfl
  · unfold rxPayload at h
    obtain ⟨u, hu, h⟩ := body_bind h
    obtain ⟨hlt, rfl⟩ := memWrite_cases hu
    cases h
    exact .captured hst hlt rfl
  · unfold rxFooter at h
    split at h
    · obtain rfl | hv := verifyFrame_cases h
      · exact .moved _ rfl
      · exact .serviced _ (by simp [hst]) hv
    · cases h; exact .moved _ rfl
  · unfold rxDrain at h
    split at h
    · obtain rfl | hv := drainEnd_cases h
      · exact .moved _ rfl
      · exact .serviced _ (by simp [hst]) hv
    · cases h; exact .moved _ rfl
  · cases h; exact .moved s.fs rfl

/-- A received byte raises no fault of the block. -/
theorem rxByte_noRaise (b : Byte) (s : State) : NoRaise (rxByte b s) := by
  unfold rxByte
  split
  · exact .ok _
  · exact rxAddress_noRaise b s
  · exact .ok _
  · exact .ok _
  · exact .ok _
  · unfold rxPayload
    refine NoRaise.bind ?_ fun _ _ => .ok _
    unfold memWrite
    split
    · exact .ok _
    · intro info h; cases h
  · unfold rxFooter
    split
    · unfold verifyFrame
      refine NoRaise.bind ?_ fun p _ => ?_
      · unfold framePayload
        split
        · intro info h; cases h
        · exact .ok _
      · split
        · exact service_noRaise _
        · exact .ok _
    · exact .ok _
  · unfold rxDrain
    split
    · unfold drainEnd
      split
      · exact .ok _
      · split
        · exact .ok _
        · exact (NoRaise.reply _ _ _).pidOnly
    · exact .ok _
  · exact .ok _

end Sys2Proof.Machine
end

