-- ==== Sys2Proof/Laws/Scheduler.lean ====
section
/-! SUPPORT. What a tick can do, said once: steps 1 to 4 by the registers they leave, steps 5 to 8 by the three
ways a tick ends (R111 to R120). -/

namespace Sys2Proof.Machine

/-! ### Loading a setpoint (R120) -/

theorem playTicks_ne_zero (d : U16) : playTicks d ≠ 0 := by
  unfold playTicks
  split
  · decide
  · assumption

theorem loadSetpoint_ok {b : Batch} {i : Nat} {r : SchRegs} {x : Setpoint} (h : b.sp[i]? = some x) :
    loadSetpoint b i r = .ok { r with rem := playTicks x.duration, target := x.target } := by
  simp [loadSetpoint, h]

theorem loadSetpoint_cases {b : Batch} {i : Nat} {r r' : SchRegs} (h : loadSetpoint b i r = .ok r') :
    ∃ x, b.sp[i]? = some x ∧ r' = { r with rem := playTicks x.duration, target := x.target } := by
  unfold loadSetpoint at h
  split at h
  · cases h; exact ⟨_, ‹_›, rfl⟩
  · cases h

theorem loadSetpoint_noRaise (b : Batch) (i : Nat) (r : SchRegs) : NoRaise (loadSetpoint b i r) := by
  unfold loadSetpoint
  split
  · exact .ok _
  · intro info h; cases h

/-! ### What a tick leaves as it was -/

/-- Everything a tick leaves as it was. -/
structure TickFrame (s t : State) : Prop where
  cfg : t.cfg = s.cfg
  blk : t.blk = s.blk
  ckAcc : t.ckAcc = s.ckAcc
  self : t.self = s.self
  fs : t.fs = s.fs
  pbuf : t.pbuf = s.pbuf
  port : t.port = s.port
  res : t.res = s.res
  draws : t.draws = s.draws
  coefficients : t.pid.kp = s.pid.kp ∧ t.pid.ki = s.pid.ki ∧ t.pid.kd = s.pid.kd
  events : t.events = s.events ∨ t.events = s.events ++ [.drive t.sch.drive]

/-- The PID registers a rendering tick computes from: re-seeded when the strategy was inactive (R118,
R133). -/
def seededPid (s : State) : PidRegs :=
  if s.sch.renderActive then s.pid else { s.pid with sp := s.rnd.pos }

/-- Step 7, by its result (R118): one DRIVE, whose value SCH.drive holds. -/
theorem tickRender_cases (s : State) :
    ∃ (rnd : RndRegs) (p : PidRegs) (d : Byte),
      rnd = filterSample s.cfg s.rnd.sample s.rnd ∧
      p = setSetpoint s.cfg (rawAngle s.cfg s.sch.target) (seededPid s) ∧
      d = F32.truncI8 (pidOutput s.cfg rnd.pos p) ∧
      tickRender s = { s with
        rnd := rnd, pid := pidAfterUpdate s.cfg rnd.pos p
        sch := { s.sch with renderActive := true, drive := d }
        events := s.events ++ [.drive d] } := by
  refine ⟨_, _, _, rfl, rfl, rfl, ?_⟩
  unfold tickRender tickReactivate
  split <;> rename_i hact <;>
    simp [State.emit, seededPid, hact, renderReset, renderBefore, renderCompute, renderAfter]

/-! ### Steps 2 to 4 -/

/-- Steps 2 and 3 leave one of four register sets (R113, R114). -/
theorem tickActivate_cases {r r0 : SchRegs} (h : tickActivate (tickFetch r) = .ok r0) :
    AfterSlots r r0 := by
  have main : ∀ (b : Batch) (q : List Batch), SlotHolds r b q →
      tickActivate { r with next := some b, queue := q } = .ok r0 → AfterSlots r r0 := by
    intro b q hs h
    unfold tickActivate at h
    simp only at h
    split at h
    · rename_i hd
      unfold activate at h
      simp only at h
      split at h
      · rename_i hc
        cases h
        exact .activatesEmpty b q hs hd (by simpa [Batch.count] using hc)
      · obtain ⟨x, hx, rfl⟩ := loadSetpoint_cases h
        exact .activates b q x hs hd hx
    · rename_i hd
      cases h
      exact .waits b q hs hd
  unfold tickFetch at h
  split at h
  · rename_i b q hn hq
    exact main b q (.inr ⟨hn, hq⟩) h
  · rename_i hn hq
    simp only [tickActivate, hn] at h
    cases h
    exact .nothing hn hq
  · rename_i b hn
    refine main b r.queue (.inl ⟨hn, rfl⟩) ?_
    rw [← hn]
    exact h

/-- Steps 2 and 3 always complete. -/
theorem tickActivate_total (r : SchRegs) : ∃ r0, tickActivate r = .ok r0 := by
  unfold tickActivate
  split
  · exact ⟨_, rfl⟩
  · rename_i b hb
    split
    · unfold activate
      simp only
      split
      · exact ⟨_, rfl⟩
      · rename_i hc
        have hlt : 0 < b.sp.length := by unfold Batch.count at hc; omega
        exact ⟨_, loadSetpoint_ok (List.getElem?_eq_getElem hlt)⟩
    · exact ⟨_, rfl⟩

/-- The registers after steps 2 and 3 are determined. -/
theorem AfterSlots.fetch {r r0 : SchRegs} (h : AfterSlots r r0) :
    tickActivate (tickFetch r) = .ok r0 := by
  have fetched : ∀ (b : Batch) (q : List Batch), SlotHolds r b q →
      tickFetch r = { r with next := some b, queue := q } := by
    rintro b q (⟨hn, rfl⟩ | ⟨hn, hq⟩)
    · unfold tickFetch
      simp only [hn]
      rw [← hn]
    · unfold tickFetch
      simp only [hn, hq]
  cases h with
  | nothing hn hq =>
    have : tickFetch r = r := by
      unfold tickFetch
      simp only [hn, hq]
    rw [this]
    simp [tickActivate, hn]
  | waits b q hs hd =>
    rw [fetched b q hs]
    unfold tickActivate
    simp only [if_neg hd]
  | activates b q x hs hd hx =>
    have hc : b.count ≠ 0 := by
      intro h0
      have : b.sp = [] := by simpa [Batch.count] using h0
      simp [this] at hx
    rw [fetched b q hs]
    simp [tickActivate, hd, activate, hc, loadSetpoint, hx]
  | activatesEmpty b q hs hd he =>
    rw [fetched b q hs]
    simp [tickActivate, hd, activate, Batch.count, he]

/-- Steps 1 to 4 complete (R111 to R115). -/
theorem tickPrepare_ok {p : F32} {s : State} {r0 : SchRegs} (h : AfterSlots s.sch r0) :
    tickPrepare p s =
      .ok
        { s with
          rnd := filterSample s.cfg p { s.rnd with sample := p }
          sch := tickDropEmpty { r0 with tickPending := false } } := by
  have h' : AfterSlots { s.sch with tickPending := false } { r0 with tickPending := false } := by
    cases h with
    | nothing hn hq => exact .nothing (r := { s.sch with tickPending := false }) hn hq
    | waits b q hs hd => exact .waits (r := { s.sch with tickPending := false }) b q hs hd
    | activates b q x hs hd hx =>
      exact .activates (r := { s.sch with tickPending := false }) b q x hs hd hx
    | activatesEmpty b q hs hd he =>
      exact .activatesEmpty (r := { s.sch with tickPending := false }) b q hs hd he
  unfold tickPrepare
  simp only [tickSample]
  rw [h'.fetch]
  rfl

/-! ### Steps 5 to 8 -/

/-- Step 8 completes while the play position is in the batch (R119). -/
theorem tickAdvance_ok {c : Config} {b : Batch} {r : SchRegs} (hi : r.idx.toNat < b.count)
    (hb : b.count < 2 ^ 16) : ∃ r', tickAdvance c b r = .ok r' := by
  have h1 : (r.idx + 1).toNat = if r.idx.toNat + 1 = 2 ^ 16 then 0 else r.idx.toNat + 1 := by
    rw [BitVec.toNat_add]
    have := r.idx.isLt
    split <;> simp <;> omega
  unfold Batch.count at *
  unfold tickAdvance Batch.count
  split
  · split
    · exact ⟨_, loadSetpoint_ok (List.getElem?_eq_getElem (by omega))⟩
    · exact ⟨_, loadSetpoint_ok (List.getElem?_eq_getElem (by split at h1 <;> omega))⟩
  · exact ⟨_, rfl⟩

theorem tickAdvance_drive {c : Config} {b : Batch} {r r' : SchRegs} (h : tickAdvance c b r = .ok r') :
    r'.drive = r.drive ∧ r'.renderActive = r.renderActive ∧ r'.tickPending = r.tickPending ∧
      r'.queue = r.queue ∧ r'.next = r.next ∧ r'.cur = r.cur := by
  unfold tickAdvance at h
  split at h
  · split at h
    · obtain ⟨x, -, rfl⟩ := loadSetpoint_cases h; exact ⟨rfl, rfl, rfl, rfl, rfl, rfl⟩
    · obtain ⟨x, -, rfl⟩ := loadSetpoint_cases h; exact ⟨rfl, rfl, rfl, rfl, rfl, rfl⟩
  · cases h; exact ⟨rfl, rfl, rfl, rfl, rfl, rfl⟩

/-- Steps 5 to 8 with nothing to play (R116). -/
theorem tickPlay_idle {s : State} (h : s.sch.cur = none) : tickPlay s = .ok (tickIdle s) := by
  simp [tickPlay, h]

/-- Steps 5 to 8 with the loop budget spent (R117). -/
theorem tickPlay_exhausted {s : State} {b : Batch} (h : s.sch.cur = some b) (hl : s.sch.loops = 0) :
    tickPlay s = .ok (tickExhausted s) := by
  simp [tickPlay, h, hl]

/-- Steps 5 to 8 of a tick that renders (R118, R119). -/
theorem tickPlay_renders {s : State} {b : Batch} {r : SchRegs} (h : s.sch.cur = some b)
    (hl : s.sch.loops ≠ 0) (ha : tickAdvance (tickRender s).cfg b (tickRender s).sch = .ok r) :
    tickPlay s = .ok { tickRender s with sch := r } := by
  unfold tickPlay
  simp only [h, if_neg hl, ha, body_ok_bind]

/-- A tick leaves everything but the scheduler, the PID setpoint, last error and integrator, the render
registers and one DRIVE event. -/
theorem tick_frame {p : F32} {s t : State} (h : tick p s = .ok t) : TickFrame s t := by
  unfold tick at h
  obtain ⟨u, hu, h⟩ := body_bind h
  obtain ⟨r0, hr0⟩ := tickActivate_total (tickFetch s.sch)
  rw [tickPrepare_ok (tickActivate_cases hr0)] at hu
  cases hu
  unfold tickPlay at h
  split at h
  · cases h
    constructor <;> first | rfl | exact ⟨rfl, rfl, rfl⟩ | exact .inr rfl
  · split at h
    · cases h
      constructor <;> first | rfl | exact ⟨rfl, rfl, rfl⟩ | exact .inl rfl
    · obtain ⟨r, hr, h⟩ := body_bind h
      cases h
      obtain ⟨rnd, q, d, -, hq, -, hv⟩ := tickRender_cases
        { s with
          rnd := filterSample s.cfg p { s.rnd with sample := p }
          sch := tickDropEmpty { r0 with tickPending := false } }
      rw [hv] at hr ⊢
      have hd := (tickAdvance_drive hr).1
      have hp : q.kp = s.pid.kp ∧ q.ki = s.pid.ki ∧ q.kd = s.pid.kd := by
        subst hq
        unfold setSetpoint seededPid
        split <;> exact ⟨rfl, rfl, rfl⟩
      constructor
      all_goals first
        | rfl
        | exact hp
        | (refine .inr ?_; rw [hd])

/-- Everything `SCH.TICK` does behind the gate (R111; log 7). -/
theorem pendingTick_cases {p : F32} {s t : State} (h : pendingTick p s = .ok t) :
    (s.sch.tickPending = true ∧ tick p s = .ok t) ∨ (s.sch.tickPending = false ∧ t = s) := by
  unfold pendingTick at h
  split at h
  · exact .inl ⟨‹_›, h⟩
  · rename_i hp
    cases h
    exact .inr ⟨by simpa using hp, rfl⟩

theorem tick_noRaise (p : F32) (s : State) : NoRaise (tick p s) := by
  unfold tick
  obtain ⟨r0, hr0⟩ := tickActivate_total (tickFetch s.sch)
  rw [tickPrepare_ok (tickActivate_cases hr0)]
  simp only [body_ok_bind]
  unfold tickPlay
  split
  · exact .ok _
  · split
    · exact .ok _
    · refine NoRaise.bind ?_ fun _ _ => .ok _
      unfold tickAdvance
      split
      · split <;> exact loadSetpoint_noRaise _ _ _
      · exact .ok _

end Sys2Proof.Machine
end

