-- ==== Sys2Proof/Laws/Bodies.lean ====
section
/-! SUPPORT. Facts about the body of every instruction at once: what no body writes, and which raise. -/

namespace Sys2Proof.Machine

/-- No body writes the parameters, the port or the fault record; only BLK.BOOT writes the block registers
and the identity. -/
theorem bodyOf_block {i : Instr} {s t : State} (h : bodyOf i s = .ok t) :
    t.cfg = s.cfg ∧ t.port = s.port ∧ t.blk.fault = s.blk.fault ∧
      t.blk.faultInfo = s.blk.faultInfo ∧
      ((∀ p, i ≠ .blkBoot p) → t.blk = s.blk ∧ t.self = s.self) := by
  have framed : ∀ {u : State}, ServiceFrame s u → u.cfg = s.cfg ∧ u.port = s.port ∧
      u.blk.fault = s.blk.fault ∧ u.blk.faultInfo = s.blk.faultInfo ∧
      ((∀ p, i ≠ .blkBoot p) → u.blk = s.blk ∧ u.self = s.self) := by
    intro u hf
    simp [hf.cfg, hf.port, hf.blk, hf.self]
  cases i <;> simp only [bodyOf] at h
  case blkBoot p =>
    unfold bootOnce at h
    split at h
    · cases h; unfold bootIdentity; split <;> simp
    · cases h
    · cases h
  case fsRxbyte b =>
    obtain ⟨f, rfl⟩ | ⟨-, -, rfl⟩ | ⟨f, -, hf⟩ := rxByte_cases h
    · simp
    · simp
    · simp [hf.cfg, hf.port, hf.blk, hf.self]
  case schTick p =>
    obtain ⟨-, h⟩ | ⟨-, rfl⟩ := pendingTick_cases h
    · have hf := tick_frame h
      simp [hf.cfg, hf.port, hf.blk, hf.self]
    · simp
  case mtPing => exact framed (servePing_frame h)
  case mtSelftest => exact framed (serveSelftest_frame h)
  case mtReadvalue => exact framed (serveReadvalue_frame h)
  case mtSetcoeff => exact framed (serveSetcoeff_frame h)
  case mtSetbatch => exact framed (serveSetbatch_frame h)
  case mtSleep => exact framed (serveSleep_frame h)
  case mtError => exact framed (serveUnknown_frame h)
  case diagPing => exact framed (serveDiagPing_frame h)
  case diagSelftest => exact framed (serveDiagSelftest_frame h)
  case diagValue => exact framed (serveDiagValue_frame h)
  case pidSetcoef kp ki kd =>
    obtain ⟨p, hp, -⟩ := setCoefficients_cases kp ki kd s
    rw [hp] at h
    cases h
    simp
  case fsStart => cases h; unfold startReceiver; split <;> simp
  case fsTimeout => cases h; unfold readTimeout; split <;> simp
  all_goals cases h; simp

/-- Only BLK.BOOT raises a fault of the block behind its gate. -/
theorem bodyOf_noRaise {i : Instr} {s : State} (hi : ∀ p, i ≠ .blkBoot p) :
    NoRaise (bodyOf i s) := by
  cases i <;> simp only [bodyOf]
  case blkBoot p => exact absurd rfl (hi p)
  case fsRxbyte b => exact rxByte_noRaise b s
  case schTick p =>
    unfold pendingTick
    split
    · exact tick_noRaise p s
    · exact .ok _
  case mtPing => exact (NoRaise.reply _ _ _).pidOnly
  case mtSelftest => exact (NoRaise.reply _ _ _).pidOnly
  case mtReadvalue => exact (NoRaise.reply _ _ _).pidOnly
  case mtSleep => exact (NoRaise.reply _ _ _).pidOnly
  case mtError => exact (NoRaise.reply _ _ _).pidOnly
  case diagPing => exact (NoRaise.ok _).pidOnly
  case diagSelftest => exact (NoRaise.ok _).pidOnly
  case diagValue => exact (NoRaise.ok _).pidOnly
  case mtSetcoeff => exact serveSetcoeff_noRaise s
  case mtSetbatch => exact serveSetbatch_noRaise s
  all_goals exact .ok _

end Sys2Proof.Machine
end

