-- ==== Sys2Proof/Laws/Decode.lean ====
section
/-! SUPPORT. The fields of a command word and of operand words, what the port decoder's answers say of the
opcode, and step as a gate around a body. -/

namespace Sys2Proof

/-! ### Fields (R68, R69) -/

@[simp] theorem cmdOpcode_cmdWord (op imm : Byte) : cmdOpcode (cmdWord op imm) = op := by
  unfold cmdOpcode cmdWord
  ext i hi
  simp
  grind

@[simp] theorem cmdImm8_cmdWord (op imm : Byte) : cmdImm8 (cmdWord op imm) = imm := by
  unfold cmdImm8 cmdWord
  ext i hi
  simp
  grind

@[simp] theorem lowHalf_wordOfHalves (hi lo : U16) : lowHalf (wordOfHalves hi lo) = lo := by
  unfold lowHalf wordOfHalves
  ext i hi
  simp
  grind

@[simp] theorem highHalf_wordOfHalves (hi lo : U16) : highHalf (wordOfHalves hi lo) = hi := by
  unfold highHalf wordOfHalves
  ext i hi
  simp
  grind

theorem packBytes_length (bs : List Byte) : (packBytes bs).length = wordsForBytes bs.length := by
  induction bs using packBytes.induct <;> simp_all [packBytes, wordsForBytes]
  omega

/-! ### What the port decoder's answers say of the opcode -/

theorem byte_of_toNat {op : Byte} {n : Nat} (h : op.toNat = n) : op = BitVec.ofNat 8 n := by
  apply BitVec.eq_of_toNat_eq
  simp [← h]

/-- An instruction read from a command has the command's opcode. -/
theorem decodePort_opcode {c : Command} {i : Instr} (h : decodePort c = .ok i) :
    Machine.opcodeOf i = some (cmdOpcode c.cmd) := by
  unfold decodePort at h
  simp only at h
  split at h <;> (try (rename_i hop; have hop := byte_of_toNat hop)) <;>
    (try unfold readOperand at h) <;> (try unfold oneOperand at h) <;>
    (try unfold threeOperands at h)
  all_goals (try split at h)
  all_goals (try cases h)
  all_goals simp_all [Machine.opcodeOf]

/-- A command rejected for its opcode is outside the map (R71). -/
theorem decodePort_illegal {c : Command} {op : Byte}
    (h : decodePort c = .error (.illegalOpcode op)) : op = cmdOpcode c.cmd ∧ opClass op = none := by
  unfold decodePort at h
  simp only at h
  split at h <;> (try unfold readOperand at h) <;> (try unfold oneOperand at h) <;>
    (try unfold threeOperands at h)
  all_goals (try split at h)
  all_goals (try cases h)
  refine ⟨rfl, ?_⟩
  unfold opClass
  split <;> first | rfl | (exfalso; simp_all)

/-- A command rejected for its operand words keeps its opcode. -/
theorem decodePort_missing {c : Command} {op : Byte}
    (h : decodePort c = .error (.missingOperands op)) : op = cmdOpcode c.cmd := by
  unfold decodePort at h
  simp only at h
  split at h <;> (try unfold readOperand at h) <;> (try unfold oneOperand at h) <;>
    (try unfold threeOperands at h)
  all_goals (try split at h)
  all_goals (try cases h)
  all_goals rfl

namespace Machine

/-- The encoding of a port operation is a command with its opcode (R70). -/
theorem encode_opcode {i : Instr} {op : Byte} (h : opcodeOf i = some op) (cfg : Config) (id : Identity) :
    ∃ c, encode cfg id i = .port c ∧ cmdOpcode c.cmd = op := by
  cases i <;> cases h <;> exact ⟨_, rfl, cmdOpcode_cmdWord _ _⟩

/-- What an encoding presents on the port has the opcode of the operation (R70). -/
theorem opcodeOf_encode {cfg : Config} {id : Identity} {i : Instr} {c : Command}
    (h : encode cfg id i = .port c) : opcodeOf i = some (cmdOpcode c.cmd) := by
  cases i <;> cases h <;> exact congrArg some (cmdOpcode_cmdWord _ _).symm

/-- With a command on the port, a step is the mode gate of the command's opcode around some body. -/
theorem step_is_gate {s : State} {c : Command} {rest : List Command} (hp : s.port = c :: rest) :
    ∃ body, step s = portGate (cmdOpcode c.cmd) (s.withPort rest) body := by
  unfold step fetch
  simp only [hp]
  cases hd : decodePort c with
  | ok i =>
    refine ⟨bodyOf i (s.withPort rest), ?_⟩
    simp only [exec_eq, decodePort_opcode hd, gated]
  | error e =>
    cases e with
    | illegalOpcode op =>
      obtain ⟨rfl, -⟩ := decodePort_illegal hd
      exact ⟨_, rfl⟩
    | missingOperands op =>
      obtain rfl := decodePort_missing hd
      exact ⟨_, rfl⟩

end Machine

end Sys2Proof
end

