-- ==== Sys2Proof/Laws/Float.lean ====
section
/-! SUPPORT. The binary32 operations by what statements need of them: the fields of an encoding built from a
sign and a magnitude, NaN results, the order, `clamp` and the guarded drive value. -/

namespace Sys2Proof.Machine

/-! ### Fields -/

theorem F32.toNat_ofMagnitude (s : Bool) {m : Nat} (h : m < 2 ^ 31) :
    (F32.ofMagnitude s m).toNat = (if s then 2 ^ 31 + m else m) := by
  unfold F32.ofMagnitude
  cases s <;> simp only [BitVec.toNat_ofNat, if_true, Bool.false_eq_true, if_false] <;> omega

theorem F32.magnitude_ofMagnitude (s : Bool) {m : Nat} (h : m < 2 ^ 31) :
    F32.magnitude (F32.ofMagnitude s m) = m := by
  unfold F32.magnitude
  rw [F32.toNat_ofMagnitude s h]
  cases s <;> simp only [if_true, Bool.false_eq_true, if_false] <;> omega

theorem F32.sign_ofMagnitude (s : Bool) {m : Nat} (h : m < 2 ^ 31) :
    F32.sign (F32.ofMagnitude s m) = s := by
  unfold F32.sign
  rw [BitVec.msb_eq_decide, F32.toNat_ofMagnitude s h]
  cases s
  · simp; omega
  · simp

theorem F32.magnitude_lt (a : F32) : F32.magnitude a < 2 ^ 31 := by
  unfold F32.magnitude
  omega

/-- A NaN has a magnitude above that of an infinity. -/
theorem F32.isNaN_iff (a : F32) : F32.isNaN a = true ↔ 255 * 2 ^ 23 < F32.magnitude a := by
  have := F32.magnitude_lt a
  unfold F32.isNaN F32.exponent F32.fraction F32.magnitude at *
  simp only [Bool.and_eq_true, beq_iff_eq, bne_iff_ne]
  omega

/-- A finite value has a magnitude below that of an infinity. -/
theorem F32.finite_iff (a : F32) : F32.finite a = true ↔ F32.magnitude a < 255 * 2 ^ 23 := by
  have := F32.magnitude_lt a
  unfold F32.finite F32.exponent F32.magnitude at *
  simp only [bne_iff_ne]
  omega

/-- A NaN result is a NaN, whatever its free sign and fraction are (log 5). -/
theorem F32.isNaN_nanOf (op : Config.FloatOp) (a b : F32) : F32.isNaN (F32.nanOf op a b) = true := by
  have h := (Config.nanPayload op a b).isLt
  rw [F32.isNaN_iff]
  unfold F32.nanOf
  rw [F32.magnitude_ofMagnitude _ (by omega)]
  omega

/-- A NaN is not finite. -/
theorem F32.not_finite_of_isNaN {a : F32} (h : F32.isNaN a = true) : F32.finite a = false := by
  rw [F32.isNaN_iff] at h
  rw [← Bool.not_eq_true, F32.finite_iff]
  omega

theorem F32.not_isNaN_of_finite {a : F32} (h : F32.finite a = true) : F32.isNaN a = false := by
  rw [F32.finite_iff] at h
  rw [← Bool.not_eq_true, F32.isNaN_iff]
  omega

/-! ### Order -/

theorem F32.le_iff (a b : F32) :
    F32.le a b = true ↔ F32.isNaN a = false ∧ F32.isNaN b = false ∧ F32.key a ≤ F32.key b := by
  simp [F32.le, and_assoc]

theorem F32.gt_iff (a b : F32) :
    F32.gt a b = true ↔ F32.isNaN a = false ∧ F32.isNaN b = false ∧ F32.key b < F32.key a := by
  simp [F32.gt, and_assoc]

theorem F32.lt_iff (a b : F32) :
    F32.lt a b = true ↔ F32.isNaN a = false ∧ F32.isNaN b = false ∧ F32.key a < F32.key b := by
  simp [F32.lt, F32.gt_iff]
  tauto

theorem F32.magnitude_neg (a : F32) : F32.magnitude (F32.neg a) = F32.magnitude a := by
  unfold F32.magnitude F32.neg
  have h : (a ^^^ 0x80000000#32).toNat % 2 ^ 31 = (a.toNat ^^^ 2 ^ 31) % 2 ^ 31 := by
    rw [BitVec.toNat_xor]
    rfl
  rw [h, Nat.xor_mod_two_pow]
  simp

theorem F32.sign_neg (a : F32) : F32.sign (F32.neg a) = !F32.sign a := by
  unfold F32.sign F32.neg
  rw [BitVec.msb_xor]
  have : (0x80000000#32).msb = true := rfl
  rw [this, Bool.xor_true]

/-- Negation flips the order. -/
theorem F32.key_neg (a : F32) : F32.key (F32.neg a) = -F32.key a := by
  unfold F32.key
  rw [F32.sign_neg, F32.magnitude_neg]
  cases F32.sign a <;> simp

theorem F32.isNaN_neg (a : F32) : F32.isNaN (F32.neg a) = F32.isNaN a := by
  rw [Bool.eq_iff_iff, F32.isNaN_iff, F32.isNaN_iff, F32.magnitude_neg]

theorem F32.finite_neg (a : F32) : F32.finite (F32.neg a) = F32.finite a := by
  rw [Bool.eq_iff_iff, F32.finite_iff, F32.finite_iff, F32.magnitude_neg]

/-- A value between two finite ones is finite. -/
theorem F32.finite_of_between {a lo hi : F32} (hlo : F32.finite lo = true) (hhi : F32.finite hi = true)
    (h1 : F32.le lo a = true) (h2 : F32.le a hi = true) : F32.finite a = true := by
  rw [F32.le_iff] at h1 h2
  rw [F32.finite_iff] at *
  have := h1.2.2
  have := h2.2.2
  unfold F32.key at *
  split at * <;> split at * <;> (try split at *) <;> omega

/-! ### clamp (R17) -/

/-- `clamp` of a value that is not a NaN lies within its bounds. -/
theorem F32.clamp_between {x lo hi : F32} (hx : F32.isNaN x = false) (h : F32.le lo hi = true) :
    F32.le lo (F32.clamp x lo hi) = true ∧ F32.le (F32.clamp x lo hi) hi = true := by
  obtain ⟨hl, hh, hk⟩ := (F32.le_iff _ _).mp h
  unfold F32.clamp
  split
  · simp only [F32.le_iff]
    exact ⟨⟨hl, hh, hk⟩, hh, hh, le_refl _⟩
  · rename_i h1
    rw [F32.gt_iff] at h1
    split
    · simp only [F32.le_iff]
      exact ⟨⟨hl, hl, le_refl _⟩, hl, hh, hk⟩
    · rename_i h2
      rw [F32.lt_iff] at h2
      simp only [F32.le_iff]
      refine ⟨⟨hl, hx, ?_⟩, hx, hh, ?_⟩
      · exact not_lt.mp fun hlt => h2 ⟨hx, hl, hlt⟩
      · exact not_lt.mp fun hlt => h1 ⟨hx, hh, hlt⟩

/-- A bound and its negation are in order when the bound is not below 0. -/
theorem F32.neg_le_self {m : F32} (h : F32.le 0 m = true) : F32.le (F32.neg m) m = true := by
  rw [F32.le_iff] at *
  rw [F32.isNaN_neg, F32.key_neg]
  have h0 : F32.key 0 = 0 := by decide
  rw [h0] at h
  exact ⟨h.2.1, h.2.1, by omega⟩

end Sys2Proof.Machine
end

