-- ==== Sys2Proof/Laws/PerInstr.lean ====
section
/-! SUPPORT. Statements made once per instruction. `RowMatch`: the first word of the instruction's encoding,
for identity A of configuration EX, matches the row of the opcode table, under its mask. -/

namespace Sys2Proof.Laws

/-- The first word of what carries an instruction: the command word, or the byte. -/
def firstWord : Code → U16
  | .port c => c.cmd
  | .wireType b => b.setWidth 16
  | .diagByte b => b.setWidth 16

/-- The `mask` and `match` of the instruction's row in the opcode table. -/
def rowOf : Instr → U16 × U16
  | .blkBoot _ => (0xFF00, 0x0100)
  | .ckReset => (0xFF00, 0x1000)
  | .ckUpdate _ => (0xFF00, 0x1100)
  | .ckUpdateMany _ => (0xFF00, 0x1200)
  | .ckValue => (0xFF00, 0x1300)
  | .fsStart => (0xFF00, 0x2000)
  | .fsRxbyte _ => (0xFF00, 0x2100)
  | .fsTimeout => (0xFF00, 0x2200)
  | .fsIsSelf _ => (0xFF00, 0x2300)
  | .schTimer => (0xFF00, 0x3000)
  | .schTick _ => (0xFF00, 0x3100)
  | .schEnqueue _ => (0xFF00, 0x3200)
  | .schStop => (0xFF00, 0x3300)
  | .schCurpos => (0xFF00, 0x3400)
  | .pidSetcoef _ _ _ => (0xFF00, 0x4000)
  | .pidSetsp _ => (0xFF00, 0x4100)
  | .pidUpdate _ => (0xFF00, 0x4200)
  | .rndReset => (0xFF00, 0x4800)
  | .rndBefore => (0xFF00, 0x4900)
  | .rndCompute _ => (0xFF00, 0x4A00)
  | .rndAfter => (0xFF00, 0x4B00)
  | .rndFilter _ => (0xFF00, 0x4C00)
  | .mtPing => (0x00FF, 0x0001)
  | .mtSelftest => (0x00FF, 0x0002)
  | .mtReadvalue => (0x00FF, 0x0003)
  | .mtSetcoeff => (0x00FF, 0x0004)
  | .mtSetbatch => (0x00FF, 0x0005)
  | .mtSleep => (0x00FF, 0x0006)
  | .mtError => (0x00FF, 0x007F)
  | .diagPing => (0x00FF, 0x0061)
  | .diagSelftest => (0x00FF, 0x0041)
  | .diagValue => (0x00FF, 0x0031)

/-- The encoding matches the row (R65, R59, R70). -/
def RowMatch.Statement (i : Instr) : Prop :=
  firstWord (encode Config.ex Config.idA i) &&& (rowOf i).1 = (rowOf i).2

/-- A command word under the mask of the opcode field is its opcode. -/
theorem cmdWord_mask (op imm : Byte) : cmdWord op imm &&& 0xFF00 = cmdWord op 0 := by
  have hmask : ∀ j, (h : j < 16) → (0xFF00#16)[j] = decide (8 ≤ j) := by decide
  unfold cmdWord
  ext j hj
  rw [BitVec.getElem_and]
  erw [hmask j hj]
  rw [BitVec.getElem_append, BitVec.getElem_append]
  by_cases h8 : j < 8
  · simp [h8]
  · simp [h8, Nat.not_lt.mp h8]

theorem RowMatch.blkBoot (strap : BitVec 4) : RowMatch.Statement (.blkBoot strap) := cmdWord_mask _ _

theorem RowMatch.ckReset : RowMatch.Statement .ckReset := cmdWord_mask _ _

theorem RowMatch.ckUpdate (b : Byte) : RowMatch.Statement (.ckUpdate b) := cmdWord_mask _ _

theorem RowMatch.ckUpdateMany (bs : List Byte) : RowMatch.Statement (.ckUpdateMany bs) := cmdWord_mask _ _

theorem RowMatch.ckValue : RowMatch.Statement .ckValue := cmdWord_mask _ _

theorem RowMatch.fsStart : RowMatch.Statement .fsStart := cmdWord_mask _ _

theorem RowMatch.fsRxbyte (b : Byte) : RowMatch.Statement (.fsRxbyte b) := cmdWord_mask _ _

theorem RowMatch.fsTimeout : RowMatch.Statement .fsTimeout := cmdWord_mask _ _

theorem RowMatch.fsIsSelf (a : Byte) : RowMatch.Statement (.fsIsSelf a) := cmdWord_mask _ _

theorem RowMatch.schTimer : RowMatch.Statement .schTimer := cmdWord_mask _ _

theorem RowMatch.schTick (p : F32) : RowMatch.Statement (.schTick p) := cmdWord_mask _ _

theorem RowMatch.schEnqueue (batch : Batch) : RowMatch.Statement (.schEnqueue batch) := cmdWord_mask _ _

theorem RowMatch.schStop : RowMatch.Statement .schStop := cmdWord_mask _ _

theorem RowMatch.schCurpos : RowMatch.Statement .schCurpos := cmdWord_mask _ _

theorem RowMatch.pidSetcoef (kp ki kd : F32) : RowMatch.Statement (.pidSetcoef kp ki kd) := cmdWord_mask _ _

theorem RowMatch.pidSetsp (t : F32) : RowMatch.Statement (.pidSetsp t) := cmdWord_mask _ _

theorem RowMatch.pidUpdate (pos : F32) : RowMatch.Statement (.pidUpdate pos) := cmdWord_mask _ _

theorem RowMatch.rndReset : RowMatch.Statement .rndReset := cmdWord_mask _ _

theorem RowMatch.rndBefore : RowMatch.Statement .rndBefore := cmdWord_mask _ _

theorem RowMatch.rndCompute (raw : U16) : RowMatch.Statement (.rndCompute raw) := cmdWord_mask _ _

theorem RowMatch.rndAfter : RowMatch.Statement .rndAfter := cmdWord_mask _ _

theorem RowMatch.rndFilter (p : F32) : RowMatch.Statement (.rndFilter p) := cmdWord_mask _ _

theorem RowMatch.mtPing : RowMatch.Statement .mtPing := rfl

theorem RowMatch.mtSelftest : RowMatch.Statement .mtSelftest := rfl

theorem RowMatch.mtReadvalue : RowMatch.Statement .mtReadvalue := rfl

theorem RowMatch.mtSetcoeff : RowMatch.Statement .mtSetcoeff := rfl

theorem RowMatch.mtSetbatch : RowMatch.Statement .mtSetbatch := rfl

theorem RowMatch.mtSleep : RowMatch.Statement .mtSleep := rfl

theorem RowMatch.mtError : RowMatch.Statement .mtError := rfl

theorem RowMatch.diagPing : RowMatch.Statement .diagPing := rfl

theorem RowMatch.diagSelftest : RowMatch.Statement .diagSelftest := rfl

theorem RowMatch.diagValue : RowMatch.Statement .diagValue := rfl

end Sys2Proof.Laws
end

