-- ==== Sys2Proof/Tests/Slice0.lean ====
section
/-! SUPPORT. The model's own tests: ill-formed terms refused, every constructor's decoding from words written
out from the spec's encodings, one or two worked examples of the spec per instruction, and for every
obligation with hypotheses a concrete state that meets them. Vector and rule numbers are the spec's. -/

namespace Sys2Proof.Tests

set_option Elab.async false

open Sys2Proof Sys2Proof.Machine

/-! ### States -/

/-- Booted A of 95_test_vectors: RUN, identity A, AWAIT_ADDR. -/
def bootedA : State :=
  { State.reset with
    blk := { mode := .run, fault := false, faultInfo := none }, self := .known Config.idA
    fs := { State.reset.fs with state := .awaitAddr } }

/-- Booted A with these parameters. -/
def withCfg (c : Config) : State := { bootedA with cfg := c }

/-- Booted A with internal operations on the port. -/
def benchA : State := withCfg { Config.ex with portInternal := true }

/-- Booted A with STRATEGY = PULSE. -/
def pulseA : State := withCfg { Config.ex with strategy := .pulse }

/-- Reset with the 32-bit checksum. -/
def reset32 : State := State.resetOf Config.ex32

/-- Booted A with a texts-and-batch choice, so that a test can be evaluated. -/
def chosenA : State :=
  withCfg
    { Config.ex with
      textSelftest := [0x4F, 0x4B], selftestBatch := { delay := 0, loop := 1, sp := [⟨5, 7⟩] } }

/-- A state whose receiver registers are these. -/
def withFs (s : State) (f : FsRegs → FsRegs) : State := { s with fs := f s.fs }

/-- A state whose scheduler registers are these. -/
def withSch (s : State) (f : SchRegs → SchRegs) : State := { s with sch := f s.sch }

/-- A state with a tick pending. -/
def pending (s : State) : State := withSch s fun r => { r with tickPending := true }

/-- The batch of V-SV-6. -/
def batchSV6 : Batch := { delay := 0, loop := 2, sp := [⟨100, 1000⟩, ⟨200, 2000⟩] }

/-- A batch of one setpoint. -/
def oneShot : Batch := { delay := 0, loop := 1, sp := [⟨1, 1000⟩] }

/-- Booted A with a full queue. -/
def fullA : State := withSch bootedA fun r => { r with queue := List.replicate 8 oneShot }

/-- Booted A that has captured these payload bytes. -/
def captured (s : State) (bytes : List Byte) : State :=
  { s with
    fs := { s.fs with size := BitVec.ofNat 16 bytes.length }
    pbuf := (bytes.zipIdx.foldl (fun m x => Memory.write m x.2 x.1) []) }

/-- The payload of V-SV-2: kp 2.0, ki 1.0, kd 0.5. -/
def coefBytes : List Byte := [0, 0, 0, 0x40, 0, 0, 0x80, 0x3F, 0, 0, 0, 0x3F]

/-- The payload of V-SV-6. -/
def batchBytes : List Byte := [0, 0, 2, 0, 2, 0, 0x64, 0, 0xE8, 3, 0xC8, 0, 0xD0, 7]

/-- The outcome is a next state. -/
def isNext (o : Host.Outcome State Fault Refusal) : Bool := (nextState? o).isSome

theorem next_of_isNext {o : Host.Outcome State Fault Refusal} (h : isNext o = true) :
    ∃ t, o = .next t := by
  cases o with
  | next t => exact ⟨t, rfl⟩
  | fault f => cases h
  | refused r => cases h

/-- The refusal of an outcome, if it is one. -/
def refusal? : Host.Outcome State Fault Refusal → Option Refusal
  | .next _ => none
  | .fault _ => none
  | .refused r => some r

/-- A field of the state after an operation. -/
def after {α : Type} (i : Instr) (s : State) (f : State → α) : Option α := (nextState? (exec i s)).map f

/-- A field of the state after received bytes. -/
def received {α : Type} (bs : List Byte) (s : State) (f : State → α) : Option α :=
  (receiveBytes bs s).map f

/-! ### Ill-formed terms -/

theorem wf_bytes (bs : List Byte) :
    Instr.WellFormed (.ckUpdateMany bs) = decide (bs.length < 2 ^ 32) := rfl

theorem wf_batch (b : Batch) : Instr.WellFormed (.schEnqueue b) = decide (b.sp.length < 2 ^ 16) := rfl

theorem test_wf_refuses_long_bytes :
    Instr.WellFormed (.ckUpdateMany (List.replicate (2 ^ 32) 0x00)) = false := by
  rw [wf_bytes, List.length_replicate, decide_eq_false_iff_not]
  omega

theorem test_wf_refuses_long_batch :
    Instr.WellFormed (.schEnqueue { delay := 0, loop := 1, sp := List.replicate (2 ^ 16) ⟨1, 1⟩ }) =
      false := by
  rw [wf_batch, List.length_replicate, decide_eq_false_iff_not]
  omega

theorem test_wf_accepts_longest_batch :
    Instr.WellFormed
      (.schEnqueue { delay := 0, loop := 1, sp := List.replicate (2 ^ 16 - 1) ⟨1, 1⟩ }) = true := by
  rw [wf_batch, List.length_replicate, decide_eq_true_eq]
  omega

/-! ### Decoding, one word per constructor (R65, R59, R69, R70) -/

theorem test_decode_blkBoot : decodePort ⟨0x01F1, []⟩ = .ok (.blkBoot 0b0001) := by decide
theorem test_decode_ckReset : decodePort ⟨0x1000, []⟩ = .ok .ckReset := by decide
theorem test_decode_ckUpdate : decodePort ⟨0x1141, []⟩ = .ok (.ckUpdate 0x41) := by decide
theorem test_decode_ckUpdateMany :
    decodePort ⟨0x1200, [0x00000005, 0x34333231, 0xFFFFFF35]⟩ =
      .ok (.ckUpdateMany [0x31, 0x32, 0x33, 0x34, 0x35]) := by decide
theorem test_decode_ckValue : decodePort ⟨0x1300, []⟩ = .ok .ckValue := by decide
theorem test_decode_fsStart : decodePort ⟨0x2000, []⟩ = .ok .fsStart := by decide
theorem test_decode_fsRxbyte : decodePort ⟨0x215E, []⟩ = .ok (.fsRxbyte 0x5E) := by decide
theorem test_decode_fsTimeout : decodePort ⟨0x2200, []⟩ = .ok .fsTimeout := by decide
theorem test_decode_fsIsSelf : decodePort ⟨0x23FF, []⟩ = .ok (.fsIsSelf 0xFF) := by decide
theorem test_decode_schTimer : decodePort ⟨0x3000, []⟩ = .ok .schTimer := by decide
theorem test_decode_schTick : decodePort ⟨0x3100, [0x3F000000]⟩ = .ok (.schTick 0x3F000000) := by
  decide
theorem test_decode_schEnqueue :
    decodePort ⟨0x3200, [0x00020000, 0xFFFF0002, 0x03E80064, 0x07D000C8]⟩ =
      .ok (.schEnqueue batchSV6) := by decide
theorem test_decode_schStop : decodePort ⟨0x33AA, []⟩ = .ok .schStop := by decide
theorem test_decode_schCurpos : decodePort ⟨0x3400, []⟩ = .ok .schCurpos := by decide
theorem test_decode_pidSetcoef :
    decodePort ⟨0x4000, [0x40000000, 0x3F800000, 0x3F000000]⟩ =
      .ok (.pidSetcoef 0x40000000 0x3F800000 0x3F000000) := by decide
theorem test_decode_pidSetsp : decodePort ⟨0x4100, [0x3F800000]⟩ = .ok (.pidSetsp 0x3F800000) := by
  decide
theorem test_decode_pidUpdate : decodePort ⟨0x4200, [0]⟩ = .ok (.pidUpdate 0) := by decide
theorem test_decode_rndReset : decodePort ⟨0x4800, []⟩ = .ok .rndReset := by decide
theorem test_decode_rndBefore : decodePort ⟨0x4900, []⟩ = .ok .rndBefore := by decide
theorem test_decode_rndCompute : decodePort ⟨0x4A00, [0xABCD03E8]⟩ = .ok (.rndCompute 1000) := by
  decide
theorem test_decode_rndAfter : decodePort ⟨0x4B00, []⟩ = .ok .rndAfter := by decide
theorem test_decode_rndFilter : decodePort ⟨0x4C00, [0x3F000000]⟩ = .ok (.rndFilter 0x3F000000) := by
  decide
theorem test_decode_mtPing : decodeType Config.ex 0x01 = some .mtPing := by decide
theorem test_decode_mtSelftest : decodeType Config.ex 0x02 = some .mtSelftest := by decide
theorem test_decode_mtReadvalue : decodeType Config.ex 0x03 = some .mtReadvalue := by decide
theorem test_decode_mtSetcoeff : decodeType Config.ex 0x04 = some .mtSetcoeff := by decide
theorem test_decode_mtSetbatch : decodeType Config.ex 0x05 = some .mtSetbatch := by decide
theorem test_decode_mtSleep : decodeType Config.ex 0x06 = some .mtSleep := by decide
theorem test_decode_mtError : decodeType Config.ex 0x7F = some .mtError := by decide
theorem test_decode_diagPing : decodeDiag Config.idA 0x61 = some .diagPing := by decide
theorem test_decode_diagSelftest : decodeDiag Config.idA 0x41 = some .diagSelftest := by decide
theorem test_decode_diagValue : decodeDiag Config.idA 0x31 = some .diagValue := by decide

theorem test_decode_unknown_type : decodeType Config.ex 0x42 = none := by decide
theorem test_decode_missing_operand : decodePort ⟨0x4000, [0, 0]⟩ = .error (.missingOperands 0x40) := by
  decide
theorem test_table_word :
    decodeTableWord 16 0x3100 = some (.schTick 0) ∧ decodeTableWord 8 0x41 = some .diagSelftest ∧
      decodeTableWord 16 0x1200 = some (.ckUpdateMany []) := by decide +kernel

/-! ### Checksum calculator -/

/-- V-CK-5, V-CK-9, V-CK-10. -/
theorem test_checksum_16 :
    checksum Config.ex [0x31, 0x32, 0x33, 0x34, 0x35, 0x36, 0x37, 0x38, 0x39] = 0x29B1 ∧
      checksum Config.ex [0x01, 0x02] = 0x0E7C ∧ checksum Config.ex [0x02, 0x01] = 0x6B4C := by
  decide +kernel

/-- V-CK-11, V-CK-14. -/
theorem test_checksum_32 :
    checksum Config.ex32 [] = 0 ∧
      checksum Config.ex32 [0x31, 0x32, 0x33, 0x34, 0x35, 0x36, 0x37, 0x38, 0x39] = 0xCBF43926 := by
  decide +kernel

/-- R77's example. -/
theorem test_ckReset : after .ckReset { State.reset with ckAcc := 0x1234 } (·.ckAcc) = some 0xFFFF := by
  decide +kernel
/-- R78's example, V-CK-4; V-CK-25 in BOOT. -/
theorem test_ckUpdate :
    after (.ckUpdate 0x41) bootedA (·.ckAcc) = some 0xB915 ∧
      after (.ckUpdate 0x00) State.reset (·.ckAcc) = some 0xE1F0 := by decide +kernel
/-- V-CK-19: the register of the 32-bit checksum. -/
theorem test_ckUpdateMany :
    after (.ckUpdateMany [0x01, 0x02]) reset32 (·.ckAcc) = some 0xB6BDCC92 := by decide +kernel
/-- V-CK-21, V-CK-19. -/
theorem test_ckValue :
    after .ckValue State.reset (·.res) = some (some 0x0000FFFF) ∧
      after .ckValue { reset32 with ckAcc := 0xB6BDCC92 } (·.res) = some (some 0xB6CC4292) := by
  decide +kernel

/-! ### Boot, receiver -/

/-- V-FS-B2. -/
theorem test_blkBoot :
    after (.blkBoot 0x2) State.reset (fun t => (t.self, t.blk.mode, t.fs.state)) =
      some (.known Config.idB, .run, .stopped) := by decide +kernel
/-- V-FS-B3, V-FS-B5. -/
theorem test_blkBoot_halts :
    after (.blkBoot 0x3) State.reset (fun t => (t.self, t.blk.mode, t.blk.fault, t.fs.state)) =
      some (.invalid, .halted, false, .halted) ∧
    after (.blkBoot 0x2) bootedA (fun t => (t.self, t.blk.faultInfo)) =
      some (.known Config.idA, some (.refused .bootAfterBoot)) := by decide +kernel
/-- V-FS-B8. -/
theorem test_fsStart :
    after .fsStart (withFs bootedA fun f => { f with state := .stopped }) (·.fs.state) =
      some .awaitAddr := by decide +kernel
/-- V-FS-B6. -/
theorem test_fsIsSelf :
    after (.fsIsSelf 0x01) bootedA (·.res) = some (some 1) ∧
      after (.fsIsSelf 0xFF) bootedA (·.res) = some (some 0) := by decide +kernel
/-- V-FS-2: a ping with a payload of two bytes. -/
theorem test_fsRxbyte_frame :
    received [0x01, 0x01, 0x02, 0x00, 0xAA, 0xBB, 0x8C, 0xE8] bootedA
        (fun t => (t.fs.state, t.pbuf, t.events)) =
      some (.awaitAddr, [(0, 0xAA), (1, 0xBB)], [.tx [0x01, 0x01, 0x00, 0x00, 0x44, 0xC5]]) := by
  decide +kernel
/-- V-FS-8: the header of an oversize frame; V-FS-18. -/
theorem test_fsRxbyte_header :
    received [0x01, 0x01, 0x01, 0x04] bootedA (fun t => (t.fs.state, t.fs.drainKind, t.fs.drainRem)) =
      some (.drain, .oversize, 1027) ∧
    received [0x01, 0x01, 0x61] bootedA (fun t => (t.fs.state, t.fs.size, t.events)) =
      some (.hdrSizeHi, 0x61, []) := by decide +kernel
/-- V-FS-12, V-FS-13. -/
theorem test_fsTimeout :
    after .fsTimeout (withFs bootedA fun f => { f with state := .payload })
        (fun t => (t.fs.state, t.events)) = some (.awaitAddr, [.rxRestart]) ∧
      after .fsTimeout bootedA (fun t => (t.fs.state, t.events)) = some (.awaitAddr, []) := by
  decide +kernel

/-! ### Service routine -/

/-- V-FS-1. -/
theorem test_mtPing :
    after .mtPing bootedA (·.events) = some [.tx [0x01, 0x01, 0x00, 0x00, 0x44, 0xC5]] := by
  decide +kernel
/-- V-SV-15, with a text and a batch chosen for the test. -/
theorem test_mtSelftest :
    after .mtSelftest chosenA (fun t => (t.sch.queue.length, t.events.length)) = some (1, 1) := by
  decide +kernel
/-- V-SV-16: the sample is not cached. -/
theorem test_mtReadvalue :
    after .mtReadvalue (withFs bootedA fun f => { f with bcast := true })
      (fun t => (t.draws, t.rnd.pos, t.events.length)) = some (1, 0, 0) := by decide +kernel
/-- V-SV-2. -/
theorem test_mtSetcoeff :
    after .mtSetcoeff (captured bootedA coefBytes) (fun t => (t.pid.kp, t.pid.ki, t.pid.kd, t.events)) =
      some (0x40000000, 0x3A83126F, 0x43FA0000, [.tx [0x01, 0x04, 0x00, 0x00, 0xB4, 0x2E]]) := by
  decide +kernel
/-- V-SV-5: the frame of V-SV-3 at a board with STRATEGY = PULSE. -/
theorem test_mtSetcoeff_pulse :
    received [0x01, 0x04, 0x0C, 0x00, 0, 0, 0, 0x40, 0, 0, 0, 0, 0, 0, 0, 0, 0x8B, 0x10] pulseA
        (fun t => (t.pid, t.events)) =
      some (pulseA.pid, [.tx [0x01, 0x7F, 0x02, 0x00, 0xFC, 0xFF, 0xFB, 0x96]]) := by decide +kernel
/-- V-SV-6. -/
theorem test_mtSetbatch :
    after .mtSetbatch (captured bootedA batchBytes) (fun t => (t.sch.queue, t.events)) =
      some ([batchSV6], [.tx [0x01, 0x05, 0x00, 0x00, 0x84, 0x19]]) := by decide +kernel
/-- V-SV-11. -/
theorem test_mtSetbatch_full :
    after .mtSetbatch (captured fullA [0, 0, 1, 0, 1, 0, 1, 0, 0, 0])
        (fun t => (t.sch.queue.length, t.events)) =
      some (8, [.tx [0x01, 0x7F, 0x02, 0x00, 0xFD, 0xFF, 0xCA, 0xA5]]) := by decide +kernel
/-- V-SV-12. -/
theorem test_mtSleep :
    after .mtSleep fullA (fun t => (t.sch.queue, t.sch.next, t.events)) =
      some ([], some { delay := 0, loop := 1, sp := [⟨0, 0⟩] },
        [.tx [0x01, 0x06, 0x00, 0x00, 0xD4, 0x40]]) := by decide +kernel
/-- V-SV-14. -/
theorem test_mtError :
    after .mtError bootedA (·.events) =
      some [.tx [0x01, 0x7F, 0x02, 0x00, 0xFF, 0xFF, 0xA8, 0xC3]] := by decide +kernel
/-- V-FS-15. -/
theorem test_diagPing : after .diagPing bootedA (·.events) = some [.tx [0x06]] := by decide +kernel
/-- V-SV-17, with a text and a batch chosen for the test. -/
theorem test_diagSelftest :
    after .diagSelftest chosenA (fun t => (t.sch.queue, t.events)) =
      some ([{ delay := 0, loop := 1, sp := [⟨5, 7⟩] }], [.tx [0x4F, 0x4B]]) := by decide +kernel
/-- V-SV-18. -/
theorem test_diagValue :
    after .diagValue bootedA (fun t => (t.draws, t.rnd.pos, t.events.length)) = some (1, 0, 1) := by
  decide +kernel

/-! ### Scheduler -/

/-- R110's example. -/
theorem test_schTimer : after .schTimer bootedA (·.sch.tickPending) = some true := by decide +kernel
/-- The first rendering tick of P4: kp = 100, target 10000. -/
theorem test_schTick_renders :
    after (.schTick 0)
      (pending
        { withSch bootedA (fun r => { r with queue := [{ delay := 0, loop := 0xFFFF, sp := [⟨10, 10000⟩] }] })
          with pid := { bootedA.pid with kp := 0x42C80000 } })
      (fun t => (t.events, t.pid.sp, t.sch.rem, t.sch.tickPending)) =
      some ([.drive 1], 0x3C8EFA35, 9, false) := by decide +kernel
/-- R114, R116: a delay counts down on an idle tick. -/
theorem test_schTick_waits :
    after (.schTick 0x3F000000)
      (pending (withSch bootedA fun r => { r with queue := [{ oneShot with delay := 2 }] }))
      (fun t => (t.events, t.sch.next, t.sch.cur, t.rnd.pos)) =
      some ([.drive 0], some { oneShot with delay := 1 }, none, 0x3F000000) := by decide +kernel
/-- R121's example. -/
theorem test_schEnqueue :
    after (.schEnqueue { delay := 0, loop := 1, sp := [⟨1, 0⟩] }) fullA
      (fun t => (t.res, t.sch.queue.length)) = some (some 0xFFFFFFFD, 8) := by decide +kernel
/-- R121: more setpoints than MAX_SP. -/
theorem test_schEnqueue_too_long :
    after (.schEnqueue { delay := 0, loop := 1, sp := List.replicate 255 ⟨1, 0⟩ }) bootedA
      (fun t => (t.res, t.sch.queue.length)) = some (some 0xFFFFFFFE, 0) := by decide +kernel
/-- R122's example. -/
theorem test_schStop :
    after .schStop { fullA with cfg := benchA.cfg } (fun t => (t.sch.queue, t.sch.next)) =
      some ([], some stopBatch) := by decide +kernel
/-- R123's example. -/
theorem test_schCurpos :
    after .schCurpos { bootedA with rnd := { pos := 0x3F000000, posValid := true, sample := 0x3F000000 } }
      (·.res) = some (some 0x3F000000) := by decide +kernel

/-! ### PID controller and render strategy -/

/-- R125's example. -/
theorem test_pidSetcoef :
    after (.pidSetcoef 0x40000000 0x3F800000 0x3F000000) bootedA
      (fun t => (t.pid.kp, t.pid.ki, t.pid.kd, t.res)) =
      some (0x40000000, 0x3A83126F, 0x43FA0000, some 0) := by decide +kernel
/-- R126's example. -/
theorem test_pidSetsp :
    after (.pidSetsp 0x3F800000) benchA (fun t => (t.pid.sp, t.res)) =
      some (0x3C8EFA35, some 0x3C8EFA35) := by decide +kernel
/-- R126: a non-finite setpoint is reset to 0 before the step. -/
theorem test_pidSetsp_guard :
    after (.pidSetsp 0x3F800000) { benchA with pid := { benchA.pid with sp := 0x7F800000 } }
      (fun t => t.pid.sp) = some 0x3C8EFA35 := by decide +kernel
/-- R127's example. -/
theorem test_pidUpdate :
    after (.pidUpdate 0)
      { benchA with
        pid := { kp := 0x40000000, ki := 0x3A83126F, kd := 0x43FA0000, sp := 0x3C8EFA35, lastErr := 0
                 integ := 0 } }
      (fun t => (t.pid.integ, t.pid.lastErr, t.res)) =
      some (0x3C8EFA35, 0x3C8EFA35, some 0x410C2F65) := by decide +kernel
/-- R127: an infinite position resets the integrator (C15). -/
theorem test_pidUpdate_infinite :
    after (.pidUpdate 0x7F800000) { benchA with pid := { benchA.pid with integ := 0x3F800000 } }
      (fun t => t.pid.integ) = some 0 := by decide +kernel
/-- R133's example. -/
theorem test_rndReset :
    after .rndReset { benchA with rnd := { pos := 0x3FA00000, posValid := true, sample := 0 } }
      (·.pid.sp) = some 0x3FA00000 := by decide +kernel
/-- R134: before any tick it takes RND.sample. -/
theorem test_rndBefore :
    after .rndBefore { benchA with rnd := { pos := 0, posValid := false, sample := 0x3E99999A } }
      (fun t => (t.rnd.pos, t.rnd.posValid)) = some (0x3E99999A, true) := by decide +kernel
/-- R135's example. -/
theorem test_rndCompute :
    after (.rndCompute 1000) { benchA with pid := { benchA.pid with kp := 0x42C80000 } }
      (fun t => (t.pid.sp, t.res)) = some (0x3C8EFA35, some 1) := by decide +kernel
/-- R135: 31291 passes CAL_UPPER, 31292 is clamped to 3.0. -/
theorem test_raw_angle :
    rawAngle Config.ex 31292 = 0x40400000 ∧ rawAngle Config.ex 31291 = 0x403FFFCA ∧
      rawAngle Config.ex 0 = 0 := by decide +kernel
/-- R136's example. -/
theorem test_rndAfter : after .rndAfter benchA (fun t => (t.pid, t.events)) = some (benchA.pid, []) := by
  decide +kernel
/-- R132's examples: 0.505 is within the noise floor of 0.5, 0.52 is not. -/
theorem test_rndFilter :
    after (.rndFilter 0x3F0147AE) { benchA with rnd := { pos := 0x3F000000, posValid := true, sample := 0 } }
        (·.rnd.pos) = some 0x3F000000 ∧
      after (.rndFilter 0x3F051EB8)
        { benchA with rnd := { pos := 0x3F000000, posValid := true, sample := 0 } }
        (·.rnd.pos) = some 0x3F051EB8 := by decide +kernel
/-- R126, R15: the step toward a NaN target is a NaN, whatever the free NaN is. -/
theorem test_nan_target (sp : F32) :
    F32.isNaN (F32.sub 0x7FC00000 sp) = true := by
  have hn : F32.isNaN 0x7FC00000#32 = true := by decide
  unfold F32.sub F32.add
  rw [if_pos (by simp [hn])]
  exact F32.isNaN_nanOf _ _ _

/-! ### Faults -/

/-- V-EXC-4, V-EXC-7, V-EXC-3, V-EXC-8. -/
theorem test_illegal_and_refused :
    (nextState? (step (State.reset.withPort [⟨0xFF00, []⟩]))).map (·.blk.faultInfo) =
      some (some (.illegalOp 0xFF)) ∧
    (nextState? (step (bootedA.withPort [⟨0xFF00, []⟩]))).map (·.blk.mode) = some .halted ∧
    (nextState? (step (State.reset.withPort [⟨0x3300, []⟩]))).map (·.blk.faultInfo) =
      some (some (.refused .beforeBoot)) ∧
    (nextState? (step (bootedA.withPort [⟨0x4100, []⟩]))).map (·.blk.faultInfo) =
      some (some (.illegalOp 0x41)) := by decide +kernel

/-- R130: a configuration with STRATEGY = PULSE is refused but for the answer to set-coefficients. -/
theorem test_pulse_refused :
    refusal? (exec (.schTick 0) (pending pulseA)) = some .pulseStrategy ∧
    refusal? (exec .ckValue { State.reset with cfg := pulseA.cfg }) = some .pulseStrategy ∧
    refusal? (exec (.fsRxbyte 0x61) pulseA) = some .pulseStrategy ∧
    received [0x01, 0x01, 0x00, 0x00, 0x44, 0xC5] pulseA (·.events) = none := by decide +kernel

/-! ### Witnesses: for each obligation with hypotheses, states and operands that meet them -/

/-- Booted A, halted by a fault. -/
def haltedA : State := bootedA.raise (.illegalOp 0xFF)

/-- A configuration that breaks R10. -/
def brokenA : State := withCfg { Config.ex with maxPayload := 11 }

/-- A receiver of booted A in this state. -/
def inState (f : FsState) : State := withFs bootedA fun r => { r with state := f }

/-- Booted A in FOOTER, with one byte of the footer of V-FS-1 received. -/
def footerA : State :=
  withFs bootedA fun r =>
    { r with state := .footer, addr := 0x01, type := 0x01, size := 0, count := 1, foot := 0x44 }

/-- Booted A in DRAIN with this many bytes left. -/
def drainA (k : DrainKind) (n : U32) : State :=
  withFs bootedA fun r => { r with state := .drain, drainKind := k, drainRem := n }

/-- Booted A with the last byte of a header to come. -/
def headerA (addr : Byte) (low : U16) : State :=
  withFs bootedA fun r => { r with state := .hdrSizeHi, addr := addr, size := low }

theorem bootedA_inRun : bootedA.inRun := ⟨by decide +kernel, rfl⟩

theorem bootedA_running : bootedA.running := ⟨bootedA_inRun, rfl⟩

theorem bootedA_notHalted : bootedA.notHalted := ⟨⟨bootedA_inRun.1, rfl⟩, by decide⟩

theorem reset_defined : State.reset.defined := ⟨by decide +kernel, rfl⟩

theorem reset_notHalted : State.reset.notHalted := ⟨reset_defined, by decide⟩

theorem pulseA_inRun : pulseA.inRun := ⟨by decide +kernel, rfl⟩

theorem benchA_internal : benchA.internalPort := ⟨⟨⟨by decide +kernel, rfl⟩, rfl⟩, rfl⟩

/-- A field of the result of an operation, where it has a next state. -/
theorem next_with {i : Instr} {s : State} {P : State → Prop} (h : isNext (exec i s) = true)
    (hp : ∀ t, exec i s = .next t → P t) : ∃ t, exec i s = .next t ∧ P t := by
  obtain ⟨t, ht⟩ := next_of_isNext h
  exact ⟨t, ht, hp t ht⟩

theorem after_next {α : Type} {i : Instr} {s : State} {f : State → α} {v : α}
    (h : after i s f = some v) : ∃ t, exec i s = .next t ∧ f t = v := by
  unfold after at h
  cases ho : exec i s with
  | next t => rw [ho] at h; exact ⟨t, rfl, by simpa [nextState?] using h⟩
  | fault e => rw [ho] at h; cases h
  | refused r => rw [ho] at h; cases h

theorem witness_StepRunsPresentedCommand :
    ((bootedA.withPort [⟨0x3000, []⟩]).port = [⟨0x3000, []⟩] ∧
      decodePort ⟨0x3000, []⟩ = .ok .schTimer) ∧
    ((bootedA.withPort [⟨0xFF00, []⟩]).port = [⟨0xFF00, []⟩] ∧
      decodePort ⟨0xFF00, []⟩ = .error (.illegalOpcode 0xFF)) ∧
    ((bootedA.withPort [⟨0x3100, []⟩]).port = [⟨0x3100, []⟩] ∧
      decodePort ⟨0x3100, []⟩ = .error (.missingOperands 0x31)) ∧
    State.reset.port = [] := by decide

theorem witness_DecodeOfEncode :
    Config.ex.ok = true ∧ Config.idB ∈ Config.ex.identities ∧
      Instr.WellFormed (.ckUpdateMany [0x31]) = true := by decide +kernel

theorem witness_DecodedCommandWellFormed :
    decodePort ⟨0x3200, [0xFFFF0000, 0x00000001, 0x2710000A]⟩ =
      .ok (.schEnqueue { delay := 0, loop := 0xFFFF, sp := [⟨10, 10000⟩] }) := by decide

theorem witness_IllegalOpcodeRaises :
    (bootedA.withPort [⟨0xFF00, []⟩]).defined ∧
    (opClass (cmdOpcode 0xFF00) = none ∧ bootedA.blk.mode ≠ .halted) ∧
    (opClass (cmdOpcode 0x3300) = some .internal ∧ bootedA.cfg.portInternal = false ∧
      bootedA.blk.mode = .run) ∧
    (haltedA.defined ∧ haltedA.blk.mode = .halted) :=
  ⟨reset_defined, by decide, by decide, reset_defined, rfl⟩

theorem witness_BeforeBootRefused :
    State.reset.defined ∧ State.reset.blk.mode = .boot ∧
    (State.reset.withPort [⟨0x2000, []⟩]).port = [⟨0x2000, []⟩] ∧
    opClass (cmdOpcode 0x2000) = some .external ∧ opClass (cmdOpcode 0x3300) = some .internal ∧
    decodePort ⟨0x2000, []⟩ = .ok .fsStart := ⟨reset_defined, by decide⟩

theorem witness_HaltedIsStuck : haltedA.defined ∧ haltedA.blk.mode = .halted := ⟨reset_defined, rfl⟩

theorem witness_DisabledAgentOfferLapses :
    (State.reset.defined ∧ State.reset.blk.mode = .boot) ∧
      (bootedA.running ∧ bootedA.sch.tickPending = false) :=
  ⟨⟨reset_defined, rfl⟩, bootedA_running, rfl⟩

theorem witness_BrokenConfigurationRefused : brokenA.cfg.ok = false := by decide +kernel

theorem witness_PulseConfigurationRefused :
    (pulseA.cfg.ok = true ∧ pulseA.cfg.strategy = .pulse ∧ pulseA.port = [] ∧ pulseA.blk.mode = .run) ∧
    ((pulseA.withPort [⟨0x3100, [0]⟩]).port = [⟨0x3100, [0]⟩] ∧
      cmdOpcode 0x3100 ∉ [(0x01 : Byte), 0x20, 0x21, 0x40]) ∧
    (encode pulseA.cfg Config.idA .rndReset = .port ⟨0x4800, []⟩ ∧
      cmdOpcode 0x4800 ∉ [(0x01 : Byte), 0x20, 0x21, 0x40]) ∧
    ((drainA .oversize 1).fs.drainRem = 1 ∧ (drainA .oversize 1).fs.bcast = false) ∧
    pulseA.cfg.identityOf 0x2 = some Config.idB := by decide +kernel

theorem witness_FaultWritesOnlyRecord :
    ∃ t, exec (.blkBoot 0x2) bootedA = .next t ∧ (bootedA.blk.fault = false ∧ t.blk.fault = true) := by
  obtain ⟨t, ht, hf⟩ := after_next (show after (.blkBoot 0x2) bootedA (·.blk.fault) = some true by
    decide +kernel)
  exact ⟨t, ht, rfl, hf⟩

theorem witness_FaultCauses_beforeBoot :
    ∃ t, exec .fsStart State.reset = .next t ∧
      (State.reset.blk.fault = false ∧ t.blk.fault = true) := by
  obtain ⟨t, ht, hf⟩ := after_next (show after .fsStart State.reset (·.blk.fault) = some true by
    decide +kernel)
  exact ⟨t, ht, rfl, hf⟩

theorem witness_FaultCauses_internal :
    ∃ t, exec .schStop bootedA = .next t ∧ (bootedA.blk.fault = false ∧ t.blk.fault = true) := by
  obtain ⟨t, ht, hf⟩ := after_next (show after .schStop bootedA (·.blk.fault) = some true by
    decide +kernel)
  exact ⟨t, ht, rfl, hf⟩

/-- A board that has received the header of a frame with one payload byte, offered that byte. -/
def capturingA : State :=
  (withFs bootedA fun r =>
    { r with state := .payload, addr := 0x01, type := 0x01, size := 1, count := 0 }).withPort
      [⟨0x21AA, []⟩]

theorem capturingA_inv : Inv capturingA where
  config := by decide +kernel
  memory := by unfold MemoryInv; decide +kernel
  checksum := by unfold ChecksumInv; decide +kernel
  mode :=
    { boot := fun h => absurd h (by decide)
      run := fun _ => ⟨⟨Config.idA, by decide, rfl⟩, by decide, rfl⟩
      halted := fun h => absurd h (by decide)
      record := rfl }
  frame :=
    { payload := fun _ => ⟨⟨by decide, .inl (by decide), by decide⟩, by decide⟩
      footer := fun h => absurd h (by decide)
      drain := fun h => absurd h (by decide)
      oversize := fun h => absurd h (by decide) }
  scheduler :=
    { depth := by decide
      queued := fun b hb => absurd hb (List.not_mem_nil)
      next := fun b hb => absurd hb (by simp [capturingA, withFs, bootedA, State.withPort, State.reset, State.resetOf])
      current := fun b hb => absurd hb (by simp [capturingA, withFs, bootedA, State.withPort, State.reset, State.resetOf])
      drive := by decide }
  pid := by unfold PidInv inDriveRange; decide +kernel

theorem witness_StepKeepsInvariant : ∃ t, Inv capturingA ∧ step capturingA = .next t := by
  obtain ⟨t, ht⟩ := next_of_isNext (show isNext (step capturingA) = true by decide +kernel)
  exact ⟨t, capturingA_inv, ht⟩

theorem witness_InvariantStepCompletes :
    Inv capturingA ∧ capturingA.cfg.strategy = .pid ∧ capturingA.blk.mode ≠ .halted ∧
      ∀ (c : Command) (rest : List Command) (op : Byte), capturingA.port = c :: rest →
        decodePort c ≠ .error (.missingOperands op) := by
  refine ⟨capturingA_inv, rfl, by decide, ?_⟩
  intro c rest op h
  have hc : c = ⟨0x21AA, []⟩ := by
    have h' : ([⟨0x21AA, []⟩] : List Command) = c :: rest := h
    simpa using (List.cons.inj h').1.symm
  rw [hc, show decodePort ⟨0x21AA, []⟩ = .ok (.fsRxbyte 0xAA) by decide]
  simp

theorem witness_ConfigurationNeverWritten : ∃ t, step capturingA = .next t :=
  next_of_isNext (by decide +kernel)

theorem witness_IdentityReadOnce :
    bootedA.running ∧ ∃ t, exec (.blkBoot 0x1) State.reset = .next t ∧ t.self ≠ State.reset.self := by
  obtain ⟨t, ht, hs⟩ := after_next
    (show after (.blkBoot 0x1) State.reset (·.self) = some (.known Config.idA) by decide +kernel)
  exact ⟨bootedA_running, t, ht, by rw [hs]; decide⟩

theorem witness_ReceiverWriters :
    ∃ t, exec .schTimer bootedA = .next t ∧ t.blk.fault = false :=
  after_next (by decide +kernel)

theorem witness_SchedulerWriters : ∃ t, exec (.schEnqueue oneShot) bootedA = .next t :=
  next_of_isNext (by decide +kernel)

theorem witness_PidWriters : ∃ t, exec (.pidSetcoef 0x40000000 0 0) bootedA = .next t :=
  next_of_isNext (by decide +kernel)

theorem witness_RenderWriters : ∃ t, exec (.rndFilter 0x3F000000) benchA = .next t :=
  next_of_isNext (by decide +kernel)

theorem witness_FrameTrafficLeavesAccumulator : ∃ t, exec .mtPing bootedA = .next t :=
  next_of_isNext (by decide +kernel)

theorem witness_MemoryWrittenByCaptureOnly :
    (∃ t, exec (.fsRxbyte 0xAA) capturingA = .next t) ∧ (1 : Nat) ≠ capturingA.fs.count.toNat :=
  ⟨next_of_isNext (by decide +kernel), by decide⟩

theorem witness_OutputEventSources :
    (∃ t, exec (.schTick 0) (pending bootedA) = .next t ∧ t.events = [.drive 0]) ∧
    (∃ t, exec .fsTimeout (inState .drain) = .next t ∧ t.events = [.rxRestart]) ∧
    (∃ t, exec (.fsRxbyte 0x61) bootedA = .next t ∧ t.events = [.tx [0x06]]) :=
  ⟨after_next (by decide +kernel), after_next (by decide +kernel), after_next (by decide +kernel)⟩

theorem witness_ChecksumAccumulates : State.reset.notHalted ∧ bootedA.notHalted :=
  ⟨reset_notHalted, bootedA_notHalted⟩

theorem witness_ChecksumRead : reset32.notHalted := ⟨⟨by decide +kernel, rfl⟩, by decide⟩

theorem witness_SingleBitErrorDetected :
    (Config.ex.ok = true ∧ Config.ex.ckPoly.getLsbD 0 = true) ∧
      (Config.ex32.ok = true ∧ Config.ex32.ckPoly.getLsbD 0 = true) ∧ 7 < 8 := by decide +kernel

theorem witness_BootReadsIdentity :
    State.reset.defined ∧ State.reset.blk.mode = .boot ∧
    State.reset.cfg.identityOf 0x1 = some Config.idA ∧ State.reset.cfg.identityOf 0xF = none ∧
    (bootedA.defined ∧ bootedA.blk.mode = .run) ∧ (haltedA.defined ∧ haltedA.blk.mode = .halted) :=
  ⟨reset_defined, rfl, by decide, by decide, ⟨reset_defined, rfl⟩, reset_defined, rfl⟩

theorem witness_StartAndSelfMatch :
    (bootedA.running ∧ bootedA.self = .known Config.idA) ∧
    (State.running { bootedA with self := .unread }) ∧
    ((inState .stopped).running ∧ (inState .stopped).fs.state = .stopped) ∧
    bootedA.fs.state ≠ .stopped :=
  ⟨⟨bootedA_running, rfl⟩, bootedA_running, ⟨bootedA_running, rfl⟩, by decide⟩

theorem witness_TimeoutRestartsReceiver :
    (inState .footer).notHalted ∧
    (inState .footer).fs.state ∈ [FsState.hdrType, .hdrSizeLo, .hdrSizeHi, .payload, .footer, .drain] ∧
    (State.reset.notHalted ∧ State.reset.fs.state ∈ [FsState.stopped, .awaitAddr]) :=
  ⟨bootedA_notHalted, by decide, reset_notHalted, by decide⟩

theorem witness_AddressByte :
    (State.reset.notHalted ∧ State.reset.fs.state = .stopped) ∧
    bootedA.notHalted ∧ bootedA.running ∧ bootedA.self = .known Config.idA ∧
    Config.idA ∈ bootedA.cfg.identities ∧ bootedA.fs.state = .awaitAddr ∧
    decodeDiag Config.idA 0x31 = some .diagValue ∧
    (decodeDiag Config.idA 0x62 = none ∧ 0x62 ∈ bootedA.cfg.diagCodes) ∧
    0x06 ∉ bootedA.cfg.diagCodes :=
  ⟨⟨reset_notHalted, rfl⟩, bootedA_notHalted, bootedA_running, rfl, by decide, rfl, by decide,
    ⟨by decide, by decide⟩, by decide⟩

theorem witness_HeaderAndClassification :
    ((inState .hdrType).inRun ∧ (inState .hdrType).fs.state = .hdrType) ∧
    ((inState .hdrSizeLo).inRun ∧ (inState .hdrSizeLo).fs.state = .hdrSizeLo) ∧
    ((headerA 0x02 0xFF).inRun ∧ isSelf (headerA 0x02 0xFF) 0x02 = false ∧
      decide ((0x02 : Byte) = bootedA.cfg.broadcastAddr) = false) ∧
    (isSelf (headerA 0x01 1) 0x01 = true ∧
      (headerA 0x01 1).cfg.maxPayload < ((1 : U16) ||| ((0x04 : Byte).setWidth 16 <<< 8)).toNat) ∧
    (decide ((0xFF : Byte) = bootedA.cfg.broadcastAddr) = true ∧
      (0 : U16) ||| ((0x00 : Byte).setWidth 16 <<< 8) = 0) ∧
    ((0 : U16) ||| ((0x04 : Byte).setWidth 16 <<< 8) ≠ 0 ∧
      ((0 : U16) ||| ((0x04 : Byte).setWidth 16 <<< 8)).toNat ≤ (headerA 0x01 0).cfg.maxPayload) :=
  ⟨⟨bootedA_inRun, rfl⟩, ⟨bootedA_inRun, rfl⟩, ⟨bootedA_inRun, by decide, by decide⟩,
    ⟨by decide, by decide⟩, ⟨by decide, by decide⟩, by decide, by decide⟩

theorem witness_PayloadCapture :
    capturingA.running ∧ MemoryInv capturingA ∧ capturingA.fs.state = .payload ∧
      capturingA.fs.count.toNat < capturingA.cfg.maxPayload ∧
      capturingA.fs.count + 1 = capturingA.fs.size :=
  ⟨bootedA_running, capturingA_inv.memory, rfl, by decide, by decide⟩

theorem witness_FooterVerify :
    footerA.running ∧ footerA.fs.state = .footer ∧ footerA.fs.count.toNat < footerA.cfg.ckb ∧
    footerA.fs.size.toNat ≤ footerA.cfg.maxPayload ∧
    footerA.cfg.ckTrunc footerA.fs.foot = footerA.fs.foot ∧
    footerA.fs.count.toNat + 1 = footerA.cfg.ckb ∧
    (footerA.fs.foot ||| ((0xC5 : Byte).setWidth 32 <<< (8 * footerA.fs.count.toNat)) =
      checksum footerA.cfg (frameHeader footerA.fs ++ Memory.bytes footerA.pbuf 0 0)) ∧
    (footerA.fs.foot ||| ((0xC4 : Byte).setWidth 32 <<< (8 * footerA.fs.count.toNat)) ≠
      checksum footerA.cfg (frameHeader footerA.fs ++ Memory.bytes footerA.pbuf 0 0)) ∧
    decodeType footerA.cfg footerA.fs.type = some .mtPing ∧ decodeType footerA.cfg 0x42 = none ∧
    footerA.self = .known Config.idA :=
  ⟨bootedA_running, by decide +kernel⟩

theorem witness_FooterVerify_first_byte :
    (withFs footerA fun r => { r with count := 0, foot := 0 }).running ∧
      (withFs footerA fun r => { r with count := 0, foot := 0 }).fs.count.toNat + 1 <
        footerA.cfg.ckb := ⟨bootedA_running, by decide⟩

theorem witness_DrainDiscards :
    ((drainA .drop 2).running ∧ (drainA .drop 2).fs.state = .drain ∧ (drainA .drop 2).fs.drainRem ≠ 1) ∧
    ((drainA .drop 1).running ∧ (drainA .drop 1).fs.drainRem = 1) ∧
    ((drainA .oversize 1).running ∧ (drainA .oversize 1).fs.drainRem = 1 ∧
      (drainA .oversize 1).self = .known Config.idA ∧ (drainA .oversize 1).fs.drainKind = .oversize) :=
  ⟨⟨bootedA_running, rfl, by decide⟩, ⟨bootedA_running, rfl⟩, bootedA_running, rfl, rfl, rfl⟩

theorem witness_ForeignFrameIgnored :
    bootedA.inRun ∧ bootedA.fs.state = .awaitAddr ∧ isSelf bootedA 0x02 = false ∧
    0x02 ≠ bootedA.cfg.broadcastAddr ∧ 0x02 ∉ bootedA.cfg.diagCodes ∧
    ([] : List Byte).length < 2 ^ 16 ∧ ([0x98, 0x5E] : List Byte).length = bootedA.cfg.ckb ∧
    ∀ id, bootedA.self = .known id → id ∈ bootedA.cfg.identities := by
  refine ⟨bootedA_inRun, rfl, by decide, by decide, by decide, by decide, by decide, ?_⟩
  intro id h
  have : Config.idA = id := SelfId.known.inj h
  subst this
  decide

theorem witness_ValidFrameServiced :
    bootedA.inRun ∧ MemoryInv bootedA ∧ bootedA.fs.state = .awaitAddr ∧
    bootedA.self = .known Config.idA ∧ Config.idA ∈ bootedA.cfg.identities ∧
    (0xFF : Byte) = bootedA.cfg.broadcastAddr ∧ batchBytes.length ≤ bootedA.cfg.maxPayload ∧
    decodeType bootedA.cfg 0x05 = some .mtSetbatch :=
  ⟨bootedA_inRun, by unfold MemoryInv; decide, rfl, rfl, by decide, rfl, by decide, by decide⟩

theorem witness_CorruptFrameDiscarded :
    bootedA.inRun ∧ MemoryInv bootedA ∧ bootedA.fs.state = .awaitAddr ∧
    bootedA.self = .known Config.idA ∧ Config.idA ∈ bootedA.cfg.identities ∧
    (0x01 : Byte) = Config.idA.addr ∧ ([] : List Byte).length ≤ bootedA.cfg.maxPayload ∧
    ([0x44, 0xC4] : List Byte).length = bootedA.cfg.ckb ∧
    [0x44, 0xC4] ≠ footerBytes bootedA.cfg (checksum bootedA.cfg [0x01, 0x01, 0x00, 0x00]) :=
  ⟨bootedA_inRun, by unfold MemoryInv; decide, rfl, rfl, by decide, rfl, by decide, by decide,
    by decide +kernel⟩

/-- For PingAndUnknownReplies, SelftestReplies, ReadValueReplies and StopDiscardsQueue. -/
theorem witness_replies :
    bootedA.running ∧ bootedA.self = .known Config.idA ∧ benchA.internalPort :=
  ⟨bootedA_running, rfl, benchA_internal⟩

theorem witness_SetCoefficientsRequest :
    (bootedA.inRun ∧ bootedA.self = .known Config.idA ∧ bootedA.fs.size ≠ 12) ∧
    ((captured pulseA coefBytes).inRun ∧ (captured pulseA coefBytes).self = .known Config.idA ∧
      (captured pulseA coefBytes).fs.size = 12 ∧ (captured pulseA coefBytes).cfg.strategy = .pulse) ∧
    ((captured bootedA coefBytes).inRun ∧ (captured bootedA coefBytes).fs.size = 12 ∧
      (captured bootedA coefBytes).cfg.strategy = .pid ∧
      (captured bootedA coefBytes).cfg.errNotPid ≠ 0 ∧
      Memory.bytes (captured bootedA coefBytes).pbuf 0 12 =
        coefficientsPayload 0x40000000 0x3F800000 0x3F000000) :=
  ⟨⟨bootedA_inRun, rfl, by decide⟩, ⟨pulseA_inRun, rfl, by decide, rfl⟩, bootedA_inRun,
    by decide, rfl, by decide, by decide +kernel⟩

theorem witness_SetBatchRequest :
    ((captured bootedA [0, 0, 1, 0, 0]).running ∧
      (captured bootedA [0, 0, 1, 0, 0]).fs.size.toNat < 6) ∧
    ((captured bootedA [0, 0, 1, 0, 1, 0, 1, 0]).fs.size.toNat ≤ bootedA.cfg.maxPayload ∧
      (captured bootedA [0, 0, 1, 0, 1, 0, 1, 0]).fs.size.toNat ≠
        6 + 4 * leValue (Memory.bytes (captured bootedA [0, 0, 1, 0, 1, 0, 1, 0]).pbuf 4 2)) ∧
    ((captured bootedA batchBytes).self = .known Config.idA ∧
      (captured bootedA batchBytes).fs.size.toNat = 6 + 4 * batchSV6.count ∧
      Memory.bytes (captured bootedA batchBytes).pbuf 0 14 = batchPayload batchSV6 ∧
      (captured bootedA batchBytes).sch.queue.length < bootedA.cfg.qdepth ∧
      bootedA.cfg.errQueueFull ≠ 0) ∧
    ((captured fullA batchBytes).running ∧
      (captured fullA batchBytes).cfg.qdepth ≤ (captured fullA batchBytes).sch.queue.length) :=
  ⟨⟨bootedA_running, by decide⟩, ⟨by decide, by decide +kernel⟩,
    ⟨rfl, by decide, by decide +kernel, by decide, by decide⟩, bootedA_running, by decide⟩

theorem witness_TimerAndCurrentPosition : bootedA.running := bootedA_running

theorem witness_EnqueueOffers :
    bootedA.running ∧ bootedA.cfg.maxSp < Batch.count ⟨0, 1, List.replicate 255 ⟨1, 0⟩⟩ ∧
    (Batch.count ⟨0, 1, List.replicate 254 ⟨1, 0⟩⟩ ≤ bootedA.cfg.maxSp ∧
      bootedA.sch.queue.length < bootedA.cfg.qdepth) ∧
    (fullA.running ∧ fullA.cfg.qdepth ≤ fullA.sch.queue.length) :=
  ⟨bootedA_running, by decide +kernel, ⟨by decide +kernel, by decide⟩, bootedA_running, by decide⟩

/-- A tick of booted A with this batch in the queue makes it current. -/
def activated (b : Batch) (x : Setpoint) : SchRegs :=
  { bootedA.sch with
    tickPending := true, cur := some b, loops := b.loop, idx := 0, rem := playTicks x.duration
    target := x.target }

/-- Booted A with a tick pending and this batch in the queue. -/
def offered (b : Batch) : State :=
  withSch bootedA fun r => { r with queue := [b], tickPending := true }

theorem offered_activates {b : Batch} {x : Setpoint} (hd : b.delay = 0) (hx : b.sp[0]? = some x) :
    AfterSlots (offered b).sch (activated b x) :=
  .activates (r := (offered b).sch) b [] x (.inr ⟨rfl, rfl⟩) hd hx

theorem witness_TickIdles :
    (pending bootedA).running ∧ (pending bootedA).sch.tickPending = true ∧
    AfterSlots (pending bootedA).sch (pending bootedA).sch ∧
    ∀ b, (pending bootedA).sch.cur = some b → b.sp = [] :=
  ⟨bootedA_running, rfl, .nothing rfl rfl, fun b h => by cases h⟩

theorem witness_TickIdles_empty_batch :
    (offered ⟨0, 1, []⟩).running ∧
    AfterSlots (offered ⟨0, 1, []⟩).sch
      { bootedA.sch with tickPending := true, cur := some ⟨0, 1, []⟩, loops := 1, idx := 0 } :=
  ⟨bootedA_running,
    .activatesEmpty (r := (offered ⟨0, 1, []⟩).sch) ⟨0, 1, []⟩ [] (.inr ⟨rfl, rfl⟩) rfl rfl⟩

theorem witness_TickFreesExhausted :
    (offered { oneShot with loop := 0 }).running ∧
    (offered { oneShot with loop := 0 }).sch.tickPending = true ∧
    AfterSlots (offered { oneShot with loop := 0 }).sch (activated { oneShot with loop := 0 } ⟨1, 1000⟩) ∧
    (activated { oneShot with loop := 0 } ⟨1, 1000⟩).loops = 0 ∧ oneShot.sp ≠ [] :=
  ⟨bootedA_running, rfl, offered_activates rfl rfl, rfl, by decide⟩

theorem witness_TickRenders :
    (offered batchSV6).running ∧
    (offered batchSV6).sch.tickPending = true ∧
    AfterSlots (offered batchSV6).sch (activated batchSV6 ⟨100, 1000⟩) ∧
    (activated batchSV6 ⟨100, 1000⟩).cur = some batchSV6 ∧
    (activated batchSV6 ⟨100, 1000⟩).loops ≠ 0 ∧
    (activated batchSV6 ⟨100, 1000⟩).idx.toNat < batchSV6.count ∧
    batchSV6.count ≤ (offered batchSV6).cfg.maxSp ∧ batchSV6.sp[1]? = some ⟨200, 2000⟩ :=
  ⟨bootedA_running, rfl, offered_activates rfl rfl, rfl, by decide, by decide, by decide, rfl⟩

theorem offered_aboutToPlay (b : Batch) (hd : b.delay = 0) (h : b.sp = [⟨1, 1000⟩]) :
    AboutToPlay b (offered b) where
  running := bootedA_running
  slot := .inr ⟨rfl, rfl⟩
  delay := hd
  setpoints := ⟨by simp [h], by rw [Batch.count, h]; exact (by decide : 1 ≤ Config.ex.maxSp)⟩

theorem witness_FiniteBatchPlayTime :
    AboutToPlay { oneShot with loop := 2 } (offered { oneShot with loop := 2 }) ∧
    ({ oneShot with loop := 2 } : Batch).loop ≠ 0 ∧
    ({ oneShot with loop := 2 } : Batch).loop.toNat < bootedA.cfg.loopInf.toNat ∧
    ([0, 0] : List F32).length =
      ({ oneShot with loop := 2 } : Batch).loop.toNat * passTicks { oneShot with loop := 2 } :=
  ⟨offered_aboutToPlay _ rfl rfl, by decide, by decide, by decide⟩

/-- R124 item 1 on a batch of two setpoints played twice: 6 ticks, then one without a drive, then zero. -/
theorem test_play_time :
    (timedTicks [0, 0, 0, 0, 0, 0, 0, 0]
        (withSch bootedA fun r =>
          { r with cur := some batchSV6, queue := [{ delay := 0, loop := 2, sp := [⟨2, 0⟩, ⟨0, 9⟩] }] })).map
      (fun t => (t.sch.cur, t.events.length, t.events.getLast?)) = some (none, 7, some (.drive 0)) := by
  decide +kernel

/-- Booted A in the middle of an infinite batch. -/
def playingA : State :=
  withSch bootedA fun r =>
    { r with cur := some { oneShot with loop := 0xFFFF }, loops := 0xFFFF, rem := 1, target := 1000 }

theorem witness_InfiniteBatchNeverEnds :
    bootedA.cfg.loopInf ≠ 0 ∧
    (AboutToPlay { oneShot with loop := 0xFFFF } (offered { oneShot with loop := 0xFFFF }) ∧
      ({ oneShot with loop := 0xFFFF } : Batch).loop = bootedA.cfg.loopInf ∧ ([0] : List F32) ≠ []) ∧
    (Playing { oneShot with loop := 0xFFFF } playingA ∧ playingA.sch.loops = bootedA.cfg.loopInf) :=
  ⟨by decide, ⟨offered_aboutToPlay _ rfl rfl, rfl, by decide⟩,
    ⟨bootedA_running, ⟨rfl, rfl⟩, rfl, by decide, by decide⟩, rfl⟩

theorem witness_StopEndsMotion :
    bootedA.running ∧ bootedA.cfg.loopInf ≠ 1 := ⟨bootedA_running, by decide⟩

theorem witness_SetCoefficients :
    (bootedA.inRun ∧ bootedA.cfg.strategy = .pid) ∧ (pulseA.inRun ∧ pulseA.cfg.strategy = .pulse) :=
  ⟨⟨bootedA_inRun, rfl⟩, pulseA_inRun, rfl⟩

/-- For SetSetpoint and UpdateController. -/
theorem witness_controller : benchA.internalPort := benchA_internal

theorem witness_PidStaysBounded :
    Config.ex.ok = true ∧ F32.lt Config.ex.maxStep 0x73000000 = true ∧
      F32.finite bootedA.pid.sp = true := by decide +kernel

theorem witness_FilterTakesSample :
    benchA.internalPort ∧ benchA.rnd.posValid = false ∧
    F32.le (F32.abs (F32.sub 0x3F051EB8 0x3F000000)) benchA.cfg.noise = false ∧
    F32.le (F32.abs (F32.sub 0x3F0147AE 0x3F000000)) benchA.cfg.noise = true :=
  ⟨benchA_internal, rfl, by decide +kernel, by decide +kernel⟩

/-- For RenderPhases and ComputeDrive. -/
theorem witness_render :
    benchA.internalPort ∧ F32.finite benchA.cfg.rawScale = true ∧
      F32.le 0 benchA.cfg.calUpper = true :=
  ⟨benchA_internal, by decide +kernel, by decide +kernel⟩

end Sys2Proof.Tests
end

namespace Sys2Proof.Machine

/-! ### One step, by what the port presents (log 1, 8, 9) -/

theorem step_idle {s : State} (hp : s.port = []) : step s = execIdle s := by
  simp [step, fetch, hp]

theorem step_instr {s : State} {c : Command} {rest : List Command} {i : Instr}
    (hp : s.port = c :: rest) (hd : decodePort c = .ok i) :
    step s = exec i (s.withPort rest) := by
  simp [step, fetch_instr hp hd]

theorem step_illegal {s : State} {c : Command} {rest : List Command} {op : Byte}
    (hp : s.port = c :: rest) (hd : decodePort c = .error (.illegalOpcode op)) :
    step s = execIllegal op (s.withPort rest) := by
  simp [step, fetch, hp, hd]

theorem step_missingOperands {s : State} {c : Command} {rest : List Command} {op : Byte}
    (hp : s.port = c :: rest) (hd : decodePort c = .error (.missingOperands op)) :
    step s = execMissingOperands op (s.withPort rest) := by
  simp [step, fetch, hp, hd]

/-! ### A configuration without a meaning (R10) -/

/-- The configuration gate stands before a waiting step too, so no step gets past it (R10, log 10). -/
theorem step_badConfig {s : State} (hc : s.cfg.ok = false) : step s = .refused .badConfig := by
  cases hp : s.port with
  | nil => exact (step_idle hp).trans (configGate_badConfig hc)
  | cons c rest =>
    obtain ⟨body, hstep⟩ := step_is_gate hp
    exact hstep.trans (portGate_badConfig hc)

/-- Settles O11: every instruction and every step is behind the gate of the configuration. -/
theorem brokenConfigurationRefused : Obligations.BrokenConfigurationRefused :=
  fun _ hc => ⟨step_badConfig hc, fun i => exec_badConfig i hc⟩

/-! ### What a step leaves of the parameters and the port (R8, R22) -/

/-- A step that finds nothing presented waits (log 8). -/
theorem execIdle_next {s t : State} (h : execIdle s = .next t) : t = s := by
  obtain ⟨-, -, h⟩ := configGate_next h
  split at h <;> cases h <;> rfl

/-- Raising a fault and letting an offer lapse write neither the parameters nor the port, so the gates of a
port operation keep both when its body does. -/
theorem portGate_keeps_cfg_port {op : Byte} {s t : State} {body : Body State}
    (hbody : ∀ u, body = .ok u → u.cfg = s.cfg ∧ u.port = s.port)
    (h : portGate op s body = .next t) : t.cfg = s.cfg ∧ t.port = s.port := by
  obtain ⟨-, -, -, hok | ⟨_, -, rfl⟩ | ⟨rfl, -⟩ | ⟨rfl, -⟩ | ⟨rfl, -⟩⟩ := portGate_next h
  · exact hbody t hok
  all_goals exact ⟨rfl, rfl⟩

theorem exec_keeps_cfg_port {i : Instr} {s t : State} (h : exec i s = .next t) :
    t.cfg = s.cfg ∧ t.port = s.port := by
  obtain ⟨-, -, hok | ⟨_, -, rfl⟩ | ⟨_, -, rfl, -⟩ | ⟨rfl, -⟩ | ⟨rfl, -⟩⟩ := exec_next h
  · obtain ⟨hcfg, hport, -⟩ := bodyOf_block hok
    exact ⟨hcfg, hport⟩
  all_goals exact ⟨rfl, rfl⟩

/-- A step with a command presented does the rest of its work on the state without that command, whose
parameters and port it keeps. -/
theorem step_command_keeps_cfg_port {s t : State} {c : Command} {rest : List Command}
    (hp : s.port = c :: rest) (h : step s = .next t) : t.cfg = s.cfg ∧ t.port = rest := by
  cases hd : decodePort c with
  | ok i => exact exec_keeps_cfg_port ((step_instr hp hd).symm.trans h)
  | error e =>
    cases e with
    | illegalOpcode op =>
      refine portGate_keeps_cfg_port ?_ ((step_illegal hp hd).symm.trans h)
      rintro _ ⟨⟩
      exact ⟨rfl, rfl⟩
    | missingOperands op =>
      refine portGate_keeps_cfg_port ?_ ((step_missingOperands hp hd).symm.trans h)
      rintro _ ⟨⟩

/-- Settles O17, by whether a command is presented. -/
theorem configurationNeverWritten : Obligations.ConfigurationNeverWritten := by
  intro s t h
  cases hp : s.port with
  | nil =>
    obtain rfl := execIdle_next ((step_idle hp).symm.trans h)
    exact ⟨rfl, hp⟩
  | cons c rest => exact step_command_keeps_cfg_port hp h

/-! ### Output events (R14, R111, R151) -/

/-- An expired timeout emits one RX_RESTART when it was armed, else nothing (R95). -/
theorem readTimeout_events (s : State) :
    (readTimeout s).events = s.events ∨ (readTimeout s).events = s.events ++ [.rxRestart] := by
  unfold readTimeout
  split
  · exact .inr rfl
  · exact .inl rfl

/-- A received byte emits at most one transmission: that of the service it completes (R88 to R94). -/
theorem ReceiveCases.events {b : Byte} {s t : State} (h : ReceiveCases b s t) :
    t.events = s.events ∨ ∃ bytes, t.events = s.events ++ [.tx bytes] := by
  cases h with
  | moved f ht => subst ht; exact .inl rfl
  | captured _ _ ht => subst ht; exact .inl rfl
  | serviced f _ hframe => exact hframe.events

/-- A tick emits at most one event, the DRIVE of the value SCH.drive then holds; an offer that lapses emits
none (R111, R151; log 7). -/
theorem pendingTick_events {p : F32} {s t : State} (h : pendingTick p s = .ok t) :
    t.events = s.events ∨ t.events = s.events ++ [.drive t.sch.drive] := by
  obtain ⟨-, htick⟩ | ⟨-, rfl⟩ := pendingTick_cases h
  · exact (tick_frame htick).events
  · exact .inl rfl

/-- The instructions that are no port operation are the message types and the diagnostic codes. -/
theorem service_of_opcodeOf_none {i : Instr} (h : opcodeOf i = none) :
    i = .mtPing ∨ i = .mtSelftest ∨ i = .mtReadvalue ∨ i = .mtSetcoeff ∨ i = .mtSetbatch ∨
      i = .mtSleep ∨ i = .mtError ∨ i = .diagPing ∨ i = .diagSelftest ∨ i = .diagValue := by
  cases i <;> simp [opcodeOf] at h ⊢

/-- The body of a message type or a diagnostic code writes what a service can write. -/
theorem bodyOf_service_frame {i : Instr} {s t : State} (hi : opcodeOf i = none)
    (h : bodyOf i s = .ok t) : ServiceFrame s t := by
  obtain rfl | rfl | rfl | rfl | rfl | rfl | rfl | rfl | rfl | rfl := service_of_opcodeOf_none hi
  · exact servePing_frame h
  · exact serveSelftest_frame h
  · exact serveReadvalue_frame h
  · exact serveSetcoeff_frame h
  · exact serveSetbatch_frame h
  · exact serveSleep_frame h
  · exact serveUnknown_frame h
  · exact serveDiagPing_frame h
  · exact serveDiagSelftest_frame h
  · exact serveDiagValue_frame h

/-- A port operation other than a tick, a timeout and a received byte emits nothing. -/
theorem bodyOf_silent {i : Instr} {s t : State} (hport : opcodeOf i ≠ none)
    (htick : ∀ p, i ≠ .schTick p) (htimeout : i ≠ .fsTimeout) (hbyte : ∀ b, i ≠ .fsRxbyte b)
    (h : bodyOf i s = .ok t) : t.events = s.events := by
  cases i <;> simp only [bodyOf] at h
  case schTick p => exact absurd rfl (htick p)
  case fsTimeout => exact absurd rfl htimeout
  case fsRxbyte b => exact absurd rfl (hbyte b)
  case mtPing | mtSelftest | mtReadvalue | mtSetcoeff | mtSetbatch | mtSleep | mtError | diagPing |
      diagSelftest | diagValue => exact absurd rfl hport
  case blkBoot strap =>
    unfold bootOnce at h
    split at h
    · cases h; unfold bootIdentity; split <;> rfl
    · cases h
    · cases h
  case fsStart => cases h; unfold startReceiver; split <;> rfl
  case pidSetcoef kp ki kd => cases h; exact setCoefficients_events kp ki kd s
  all_goals cases h; rfl

/-- Settles O25. Without its body an operation emits nothing; with it, the events are those of its kind. -/
theorem outputEventSources : Obligations.OutputEventSources := by
  intro i s t h
  obtain ⟨-, -, hbody | ⟨_, -, rfl⟩ | ⟨_, -, rfl, -⟩ | ⟨rfl, -⟩ | ⟨rfl, -⟩⟩ := exec_next h
  · by_cases hnone : opcodeOf i = none
    · exact (bodyOf_service_frame hnone hbody).events.imp id fun ⟨bytes, he⟩ =>
        .inr (.inr ⟨bytes, he, .inr (service_of_opcodeOf_none hnone)⟩)
    by_cases htick : ∃ p, i = .schTick p
    · obtain ⟨p, rfl⟩ := htick
      exact (pendingTick_events hbody).imp id fun he => .inl ⟨_, p, rfl, he, rfl⟩
    by_cases htimeout : i = .fsTimeout
    · subst htimeout
      cases hbody
      exact (readTimeout_events s).imp id fun he => .inr (.inl ⟨rfl, he⟩)
    by_cases hbyte : ∃ b, i = .fsRxbyte b
    · obtain ⟨b, rfl⟩ := hbyte
      exact (rxByte_cases hbody).events.imp id fun ⟨bytes, he⟩ =>
        .inr (.inr ⟨bytes, he, .inl ⟨b, rfl⟩⟩)
    · exact .inl (bodyOf_silent hnone (not_exists.mp htick) htimeout (not_exists.mp hbyte) hbody)
  all_goals exact .inl rfl

end Sys2Proof.Machine

namespace Sys2Proof.Machine

/-! ### Who writes which registers (R23 to R33)

Outside its body an operation writes the fault record at most, so every statement about writers is one about
the bodies: that of a service by what it does before it answers, that of a port operation one by one. -/

/-- An operation that answers a next state ran its body, did nothing, or raised a fault. -/
theorem exec_next_body {i : Instr} {s t : State} (h : exec i s = .next t) :
    bodyOf i s = .ok t ∨ t = s ∨ ∃ info, t = s.raise info := by
  obtain ⟨-, -, hbody | ⟨info, -, rfl⟩ | ⟨_, -, rfl, -⟩ | ⟨rfl, -⟩ | ⟨rfl, -⟩⟩ := exec_next h
  · exact .inl hbody
  · exact .inr (.inr ⟨info, rfl⟩)
  · exact .inr (.inr ⟨_, rfl⟩)
  · exact .inr (.inr ⟨_, rfl⟩)
  · exact .inr (.inl rfl)

/-- What the service of a wire request or a diagnostic code does to the registers, before it answers (R101 to
R108). -/
inductive ServiceEffect (s : State) : Instr → State → Prop where
  | none (i : Instr) : ServiceEffect s i s
  | offers (i : Instr) (b : Batch) : i = .mtSelftest ∨ i = .mtSetbatch ∨ i = .diagSelftest →
      ServiceEffect s i (enqueue b s)
  | stops : ServiceEffect s .mtSleep (stopMotion s)
  | draws (i : Instr) : i = .mtReadvalue ∨ i = .diagValue → ServiceEffect s i s.countDraw
  | loads (kp ki kd : F32) : ServiceEffect s .mtSetcoeff (setCoefficients kp ki kd s).1

/-- A reply writes the output events at most. -/
theorem reply_writes_events {s t : State} {ty : Byte} {p : List Byte} (h : reply ty p s = .ok t) :
    t = { s with events := t.events } := by
  obtain rfl | ⟨bytes, rfl⟩ := reply_cases h <;> rfl

theorem serveSetcoeff_effect {s t : State} (h : serveSetcoeff s = .ok t) :
    ∃ u, ServiceEffect s .mtSetcoeff u ∧ t = { u with events := t.events } := by
  unfold serveSetcoeff at h
  split at h
  · exact ⟨s, .none _, reply_writes_events h⟩
  · obtain ⟨kp, -, h⟩ := body_bind h
    obtain ⟨ki, -, h⟩ := body_bind h
    obtain ⟨kd, -, h⟩ := body_bind h
    unfold replyToSetcoeff at h
    split at h <;> exact ⟨_, .loads kp ki kd, reply_writes_events h⟩

theorem offerPayload_effect {s t : State} (h : offerPayload s = .ok t) :
    ∃ u, ServiceEffect s .mtSetbatch u ∧ t = { u with events := t.events } := by
  unfold offerPayload at h
  split at h
  · exact ⟨s, .none _, reply_writes_events h⟩
  · obtain ⟨n, -, h⟩ := body_bind h
    split at h
    · exact ⟨s, .none _, reply_writes_events h⟩
    · obtain ⟨b, -, h⟩ := body_bind h
      unfold replyToSetbatch at h
      split at h <;> exact ⟨_, .offers _ b (by simp), reply_writes_events h⟩

/-- A service is its effect on the registers, then at most an answer. -/
theorem bodyOf_service_effect {i : Instr} {s t : State} (hi : opcodeOf i = none)
    (h : bodyOf i s = .ok t) : ∃ u, ServiceEffect s i u ∧ t = { u with events := t.events } := by
  obtain rfl | rfl | rfl | rfl | rfl | rfl | rfl | rfl | rfl | rfl := service_of_opcodeOf_none hi
  · exact ⟨s, .none _, reply_writes_events (pidOnly_ok h).2⟩
  · exact ⟨_, .offers _ _ (by simp), reply_writes_events (pidOnly_ok h).2⟩
  · exact ⟨_, .draws _ (by simp), reply_writes_events (pidOnly_ok h).2⟩
  · exact serveSetcoeff_effect h
  · exact offerPayload_effect (pidOnly_ok h).2
  · exact ⟨_, .stops, reply_writes_events (pidOnly_ok h).2⟩
  · exact ⟨s, .none _, reply_writes_events (pidOnly_ok h).2⟩
  · cases (pidOnly_ok h).2
    exact ⟨s, .none _, rfl⟩
  · cases (pidOnly_ok h).2
    exact ⟨_, .offers _ _ (by simp), rfl⟩
  · cases (pidOnly_ok h).2
    exact ⟨_, .draws _ (by simp), rfl⟩

/-- Boot, start and timeout leave the scheduler, the PID and the render registers, the result word and the
draws as they are (R84, R87, R95). -/
theorem bodyOf_receiver_keeps {i : Instr} {s t : State} (h : bodyOf i s = .ok t)
    (hi : (∃ strap, i = .blkBoot strap) ∨ i = .fsStart ∨ i = .fsTimeout) :
    t.sch = s.sch ∧ t.pid = s.pid ∧ t.rnd = s.rnd ∧ t.res = s.res ∧ t.draws = s.draws := by
  obtain ⟨strap, rfl⟩ | rfl | rfl := hi <;> simp only [bodyOf] at h
  · unfold bootOnce at h
    split at h
    · cases h
      unfold bootIdentity
      split <;> simp
    · cases h
    · cases h
  · cases h
    unfold startReceiver
    split <;> simp
  · cases h
    unfold readTimeout
    split <;> simp

/-- A received byte writes no more of the scheduler, the PID and the render registers than the service it
completes, and no result word (R88 to R94). -/
theorem ReceiveCases.service_registers {b : Byte} {s t : State} (h : ReceiveCases b s t) :
    t.sch = { s.sch with queue := t.sch.queue, next := t.sch.next } ∧
      t.pid = { s.pid with kp := t.pid.kp, ki := t.pid.ki, kd := t.pid.kd } ∧
      t.rnd = s.rnd ∧ t.res = s.res := by
  cases h with
  | moved f ht => subst ht; exact ⟨rfl, rfl, rfl, rfl⟩
  | captured _ _ ht => subst ht; exact ⟨rfl, rfl, rfl, rfl⟩
  | serviced f _ hframe => exact ⟨hframe.sch, hframe.pid, hframe.rnd, hframe.res⟩

/-! ### Block and receiver (R23, R28) -/

theorem TickFrame.refl (s : State) : TickFrame s s :=
  ⟨rfl, rfl, rfl, rfl, rfl, rfl, rfl, rfl, rfl, ⟨rfl, rfl, rfl⟩, .inl rfl⟩

/-- An offer of SCH.TICK leaves what a tick leaves, whether a tick is pending or not (R111; log 7). -/
theorem pendingTick_frame {p : F32} {s t : State} (h : pendingTick p s = .ok t) : TickFrame s t := by
  obtain ⟨-, htick⟩ | ⟨-, rfl⟩ := pendingTick_cases h
  · exact tick_frame htick
  · exact .refl t

/-- Among the bodies only those of BLK.BOOT, FS.START, FS.RXBYTE and FS.TIMEOUT write the receiver. -/
theorem bodyOf_fs {i : Instr} {s t : State} (h : bodyOf i s = .ok t)
    (hboot : ∀ strap, i ≠ .blkBoot strap) (hstart : i ≠ .fsStart) (htimeout : i ≠ .fsTimeout)
    (hbyte : ∀ b, i ≠ .fsRxbyte b) : t.fs = s.fs := by
  by_cases hi : opcodeOf i = none
  · exact (bodyOf_service_frame hi h).fs
  cases i <;> simp only [opcodeOf, not_true_eq_false] at hi
  case blkBoot strap => exact absurd rfl (hboot strap)
  case fsStart => exact absurd rfl hstart
  case fsTimeout => exact absurd rfl htimeout
  case fsRxbyte b => exact absurd rfl (hbyte b)
  case schTick p => exact (pendingTick_frame h).fs
  case pidSetcoef kp ki kd => cases h; exact (ServiceFrame.coefficients kp ki kd s).fs
  all_goals cases h; rfl

/-- Settles O19: a raised fault sets BLK.fault, so without one the body ran or nothing happened. -/
theorem receiverWriters : Obligations.ReceiverWriters := by
  intro i s t h hfault hboot
  obtain hbody | rfl | ⟨info, rfl⟩ := exec_next_body h
  · obtain ⟨-, -, -, -, hblk⟩ := bodyOf_block hbody
    exact ⟨(hblk hboot).1, bodyOf_fs hbody hboot⟩
  · exact ⟨rfl, fun _ _ _ => rfl⟩
  · simp at hfault

/-! ### Scheduler (R29 to R31) -/

/-- Among the services only those that offer a batch or stop motion write the queue and the next slot. -/
theorem ServiceEffect.queue {i : Instr} {s u : State} (h : ServiceEffect s i u)
    (hself : i ≠ .mtSelftest) (hbatch : i ≠ .mtSetbatch) (hsleep : i ≠ .mtSleep)
    (hdiag : i ≠ .diagSelftest) : u.sch.queue = s.sch.queue ∧ u.sch.next = s.sch.next := by
  cases h with
  | none => exact ⟨rfl, rfl⟩
  | offers _ b hi => rcases hi with rfl | rfl | rfl <;> contradiction
  | stops => contradiction
  | draws => exact ⟨rfl, rfl⟩
  | loads kp ki kd =>
    obtain ⟨p, hp, -⟩ := setCoefficients_cases kp ki kd s
    rw [hp]
    exact ⟨rfl, rfl⟩

/-- What a body other than that of SCH.TICK leaves of the scheduler registers. -/
theorem bodyOf_sch {i : Instr} {s t : State} (h : bodyOf i s = .ok t)
    (htick : ∀ p, i ≠ .schTick p) :
    t.sch = { s.sch with
      queue := t.sch.queue, next := t.sch.next, tickPending := t.sch.tickPending } ∧
    (i ≠ .schTimer → t.sch.tickPending = s.sch.tickPending) ∧
    ((∀ b, i ≠ .schEnqueue b) → i ≠ .schStop → i ≠ .mtSelftest → i ≠ .mtSetbatch → i ≠ .mtSleep →
      i ≠ .diagSelftest → (∀ b, i ≠ .fsRxbyte b) →
        t.sch.queue = s.sch.queue ∧ t.sch.next = s.sch.next) := by
  by_cases hi : opcodeOf i = none
  · have hsch := (bodyOf_service_frame hi h).sch
    obtain ⟨u, hu, ht⟩ := bodyOf_service_effect hi h
    refine ⟨by rw [hsch], fun _ => by rw [hsch], fun _ _ hself hbatch hsleep hdiag _ => ?_⟩
    rw [ht]
    exact hu.queue hself hbatch hsleep hdiag
  cases i <;> simp only [opcodeOf, not_true_eq_false] at hi
  case schTick p => exact absurd rfl (htick p)
  case blkBoot | fsStart | fsTimeout =>
    obtain ⟨hsch, -⟩ := bodyOf_receiver_keeps h (by simp)
    simp [hsch]
  case fsRxbyte b =>
    obtain ⟨hsch, -⟩ := (rxByte_cases h).service_registers
    rw [hsch]
    simp
  case pidSetcoef kp ki kd =>
    obtain ⟨p, hp, -⟩ := setCoefficients_cases kp ki kd s
    cases h
    simp [hp]
  all_goals cases h; simp

/-- Settles O20: a fault and a lapsed offer leave the scheduler registers as they are. -/
theorem schedulerWriters : Obligations.SchedulerWriters := by
  intro i s t h htick
  obtain hbody | rfl | ⟨info, rfl⟩ := exec_next_body h
  · exact bodyOf_sch hbody htick
  · simp
  · simp

/-! ### PID controller (R32, R129) -/

/-- Among the services only set-coefficients writes the coefficients. -/
theorem ServiceEffect.coefficients {i : Instr} {s u : State} (h : ServiceEffect s i u)
    (hcoef : i ≠ .mtSetcoeff) : u.pid = s.pid := by
  cases h with
  | loads => contradiction
  | none | offers | stops | draws => rfl

/-- What a body leaves of the PID registers. -/
theorem bodyOf_pid {i : Instr} {s t : State} (h : bodyOf i s = .ok t) :
    ((∀ kp ki kd, i ≠ .pidSetcoef kp ki kd) → i ≠ .mtSetcoeff → (∀ b, i ≠ .fsRxbyte b) →
      t.pid.kp = s.pid.kp ∧ t.pid.ki = s.pid.ki ∧ t.pid.kd = s.pid.kd) ∧
    ((∀ p, i ≠ .schTick p) → (∀ x, i ≠ .pidSetsp x) → i ≠ .rndReset → (∀ r, i ≠ .rndCompute r) →
      t.pid.sp = s.pid.sp) ∧
    ((∀ p, i ≠ .schTick p) → (∀ x, i ≠ .pidUpdate x) → (∀ r, i ≠ .rndCompute r) →
      t.pid.lastErr = s.pid.lastErr ∧ t.pid.integ = s.pid.integ) := by
  by_cases hi : opcodeOf i = none
  · have hpid := (bodyOf_service_frame hi h).pid
    obtain ⟨u, hu, ht⟩ := bodyOf_service_effect hi h
    refine ⟨fun _ hcoef _ => ?_, fun _ _ _ _ => by rw [hpid], fun _ _ _ => by rw [hpid]; simp⟩
    rw [ht]
    simp [hu.coefficients hcoef]
  cases i <;> simp only [opcodeOf, not_true_eq_false] at hi
  case schTick p => simp [(pendingTick_frame h).coefficients]
  case blkBoot | fsStart | fsTimeout =>
    obtain ⟨-, hpid, -⟩ := bodyOf_receiver_keeps h (by simp)
    simp [hpid]
  case fsRxbyte b =>
    obtain ⟨-, hpid, -⟩ := (rxByte_cases h).service_registers
    rw [hpid]
    simp
  case pidSetcoef kp ki kd =>
    obtain ⟨p, hp, hq⟩ := setCoefficients_cases kp ki kd s
    cases h
    simp only [State.setRes_pid, hp]
    rw [hq]
    simp
  case pidSetsp x => cases h; simp [setSetpoint]
  case pidUpdate x => cases h; simp [pidAfterUpdate]
  case rndReset => cases h; simp [renderReset]
  case rndCompute r => cases h; simp [pidAfterUpdate, setSetpoint]
  all_goals cases h; simp

/-- Settles O21: a fault and a lapsed offer leave the PID registers as they are. -/
theorem pidWriters : Obligations.PidWriters := by
  intro i s t h
  obtain hbody | rfl | ⟨info, rfl⟩ := exec_next_body h
  · exact bodyOf_pid hbody
  · simp
  · simp

/-! ### Render registers, draws and the result word (R33, R37; log 4, 12) -/

/-- The noise filter keeps the sample (R132). -/
@[simp] theorem filterSample_sample (c : Config) (p : F32) (r : RndRegs) :
    (filterSample c p r).sample = r.sample := by
  unfold filterSample
  split <;> rfl

/-- Among the services only the read-value requests draw a sample (R103, R108). -/
theorem ServiceEffect.draws_eq {i : Instr} {s u : State} (h : ServiceEffect s i u)
    (hread : i ≠ .mtReadvalue) (hdiag : i ≠ .diagValue) : u.draws = s.draws := by
  cases h with
  | none | offers | stops => rfl
  | draws _ hi => rcases hi with rfl | rfl <;> contradiction
  | loads kp ki kd =>
    obtain ⟨p, hp, -⟩ := setCoefficients_cases kp ki kd s
    rw [hp]

/-- What a body leaves of the render registers. -/
theorem bodyOf_rnd {i : Instr} {s t : State} (h : bodyOf i s = .ok t) (htick : ∀ p, i ≠ .schTick p) :
    t.rnd.sample = s.rnd.sample ∧
      ((∀ p, i ≠ .rndFilter p) → i ≠ .rndBefore → t.rnd = s.rnd) := by
  by_cases hi : opcodeOf i = none
  · simp [(bodyOf_service_frame hi h).rnd]
  cases i <;> simp only [opcodeOf, not_true_eq_false] at hi
  case schTick p => exact absurd rfl (htick p)
  case blkBoot | fsStart | fsTimeout =>
    obtain ⟨-, -, hrnd, -⟩ := bodyOf_receiver_keeps h (by simp)
    simp [hrnd]
  case fsRxbyte b =>
    obtain ⟨-, -, hrnd, -⟩ := (rxByte_cases h).service_registers
    simp [hrnd]
  case pidSetcoef kp ki kd =>
    cases h
    simp [(ServiceFrame.coefficients kp ki kd s).rnd]
  all_goals cases h; simp

/-- Among the bodies only those of the read-value requests and of a received byte draw a sample. -/
theorem bodyOf_draws {i : Instr} {s t : State} (h : bodyOf i s = .ok t) (hread : i ≠ .mtReadvalue)
    (hdiag : i ≠ .diagValue) (hbyte : ∀ b, i ≠ .fsRxbyte b) : t.draws = s.draws := by
  by_cases hi : opcodeOf i = none
  · obtain ⟨u, hu, ht⟩ := bodyOf_service_effect hi h
    rw [ht]
    exact hu.draws_eq hread hdiag
  cases i <;> simp only [opcodeOf, not_true_eq_false] at hi
  case fsRxbyte b => exact absurd rfl (hbyte b)
  case schTick p => exact (pendingTick_frame h).draws
  case blkBoot | fsStart | fsTimeout =>
    obtain ⟨-, -, -, -, hdraws⟩ := bodyOf_receiver_keeps h (by simp)
    exact hdraws
  case pidSetcoef kp ki kd =>
    obtain ⟨p, hp, -⟩ := setCoefficients_cases kp ki kd s
    cases h
    simp [hp]
  all_goals cases h; rfl

/-- A body without a result leaves the result word as it is (log 12). -/
theorem bodyOf_res {i : Instr} {s t : State} (h : bodyOf i s = .ok t) (hck : i ≠ .ckValue)
    (hself : ∀ a, i ≠ .fsIsSelf a) (henq : ∀ b, i ≠ .schEnqueue b) (hpos : i ≠ .schCurpos)
    (hcoef : ∀ kp ki kd, i ≠ .pidSetcoef kp ki kd) (hsp : ∀ x, i ≠ .pidSetsp x)
    (hupd : ∀ x, i ≠ .pidUpdate x) (hcomp : ∀ r, i ≠ .rndCompute r) : t.res = s.res := by
  by_cases hi : opcodeOf i = none
  · exact (bodyOf_service_frame hi h).res
  cases i <;> simp only [opcodeOf, not_true_eq_false] at hi
  case ckValue | schCurpos => contradiction
  case fsIsSelf a => exact absurd rfl (hself a)
  case schEnqueue b => exact absurd rfl (henq b)
  case pidSetcoef kp ki kd => exact absurd rfl (hcoef kp ki kd)
  case pidSetsp x => exact absurd rfl (hsp x)
  case pidUpdate x => exact absurd rfl (hupd x)
  case rndCompute r => exact absurd rfl (hcomp r)
  case schTick p => exact (pendingTick_frame h).res
  case blkBoot | fsStart | fsTimeout =>
    obtain ⟨-, -, -, hres, -⟩ := bodyOf_receiver_keeps h (by simp)
    exact hres
  case fsRxbyte b =>
    obtain ⟨-, -, -, hres⟩ := (rxByte_cases h).service_registers
    exact hres
  all_goals cases h; rfl

/-- Settles O22: a fault and a lapsed offer leave the render registers, the draws and the result word as they
are. -/
theorem renderWriters : Obligations.RenderWriters := by
  intro i s t h
  obtain hbody | rfl | ⟨info, rfl⟩ := exec_next_body h
  · exact ⟨bodyOf_rnd hbody, bodyOf_draws hbody, bodyOf_res hbody⟩
  · simp
  · simp

/-! ### CK.acc against everything else (R25)

Two runs that differ in CK.acc alone: every body but those of the checksum operations answers the same, up to
CK.acc, and the gates do not read it. -/

/-- The state with this value in CK.acc. -/
def State.withAcc (s : State) (acc : U32) : State := { s with ckAcc := acc }

@[simp] theorem State.withAcc_cfg (s : State) (acc : U32) : (s.withAcc acc).cfg = s.cfg := rfl
@[simp] theorem State.withAcc_blk (s : State) (acc : U32) : (s.withAcc acc).blk = s.blk := rfl
@[simp] theorem State.withAcc_self (s : State) (acc : U32) : (s.withAcc acc).self = s.self := rfl
@[simp] theorem State.withAcc_fs (s : State) (acc : U32) : (s.withAcc acc).fs = s.fs := rfl
@[simp] theorem State.withAcc_sch (s : State) (acc : U32) : (s.withAcc acc).sch = s.sch := rfl

/-- The outcome with this value in CK.acc of its next state. -/
def outcomeWithAcc (acc : U32) :
    Host.Outcome State Fault Refusal → Host.Outcome State Fault Refusal
  | .next t => .next (t.withAcc acc)
  | .fault f => .fault f
  | .refused r => .refused r

/-- A body that neither reads nor writes CK.acc: another value there goes through it untouched. -/
def AccBlind (f : State → Body State) : Prop :=
  ∀ (s : State) (acc : U32), f (s.withAcc acc) = (f s).map (·.withAcc acc)

/-- A quantity that does not depend on CK.acc. -/
def AccFree {α : Type} (x : State → α) : Prop := ∀ (s : State) (acc : U32), x (s.withAcc acc) = x s

/-- An update of the state that neither reads nor writes CK.acc. -/
def AccStable (g : State → State) : Prop :=
  ∀ (s : State) (acc : U32), g (s.withAcc acc) = (g s).withAcc acc

/-! ### Bodies are built from bodies that do not see CK.acc -/

theorem AccBlind.ok {g : State → State} (hg : AccStable g) : AccBlind fun s => .ok (g s) :=
  fun s acc => congrArg Except.ok (hg s acc)

theorem AccBlind.error (e : Halt) : AccBlind fun _ => .error e := fun _ _ => rfl

theorem AccStable.cond {p : State → Prop} [∀ s, Decidable (p s)] {f g : State → State}
    (hp : AccFree p) (hf : AccStable f) (hg : AccStable g) :
    AccStable fun s => if p s then f s else g s := by
  intro s acc
  simp only [hp s acc]
  split
  · exact hf s acc
  · exact hg s acc

theorem AccBlind.comp {f : State → Body State} {g : State → State} (hf : AccBlind f)
    (hg : AccStable g) : AccBlind fun s => f (g s) :=
  fun s acc => (congrArg f (hg s acc)).trans (hf (g s) acc)

theorem AccBlind.cond {p : State → Prop} [∀ s, Decidable (p s)] {f g : State → Body State}
    (hp : AccFree p) (hf : AccBlind f) (hg : AccBlind g) :
    AccBlind fun s => if p s then f s else g s := by
  intro s acc
  simp only [hp s acc]
  split
  · exact hf s acc
  · exact hg s acc

/-- A body that goes by a quantity which does not depend on CK.acc. -/
theorem AccBlind.of_read {α : Type} {x : State → α} {f : α → State → Body State} (hx : AccFree x)
    (hf : ∀ a, AccBlind (f a)) : AccBlind fun s => f (x s) s := by
  intro s acc
  simp only [hx s acc]
  exact hf (x s) s acc

/-- A body that goes on with what a read answers. -/
theorem AccBlind.bind_read {α : Type} {x : State → Body α} {f : α → State → Body State}
    (hx : AccFree x) (hf : ∀ a, AccBlind (f a)) : AccBlind fun s => x s >>= fun a => f a s := by
  refine AccBlind.of_read (f := fun r s => r >>= fun a => f a s) hx fun r => ?_
  cases r with
  | ok a => exact hf a
  | error e => exact .error e

theorem AccBlind.bind {x f : State → Body State} (hx : AccBlind x) (hf : AccBlind f) :
    AccBlind fun s => x s >>= f := by
  intro s acc
  simp only [hx s acc]
  cases x s with
  | ok t => exact hf t acc
  | error e => rfl

theorem AccBlind.pidOnly {f : State → Body State} (hf : AccBlind f) :
    AccBlind fun s => pidOnly s (f s) :=
  .cond (fun _ _ => rfl) hf (.error _)

/-! ### Replies and services -/

theorem reply_accBlind (ty : Byte) (p : List Byte) : AccBlind (reply ty p) := by
  unfold reply
  refine .cond (fun _ _ => rfl) (.ok fun _ _ => rfl) fun s acc => ?_
  simp only [State.withAcc_self]
  split <;> rfl

/-- A reply of type `ty` with payload `p`, after the update `g`. -/
theorem AccBlind.reply {ty : State → Byte} {p : State → List Byte} {g : State → State}
    (hty : AccFree ty) (hp : AccFree p) (hg : AccStable g) :
    AccBlind fun s => reply (ty s) (p s) (g s) :=
  .of_read (f := fun ty s => Machine.reply ty (p s) (g s)) hty fun ty =>
    .of_read (f := fun p s => Machine.reply ty p (g s)) hp fun p => (reply_accBlind ty p).comp hg

theorem AccBlind.replyError {code : State → U16} {g : State → State} (hcode : AccFree code)
    (hg : AccStable g) : AccBlind fun s => replyError (code s) (g s) :=
  .of_read (f := fun code s => Machine.replyError code (g s)) hcode fun _ =>
    .comp (.reply (fun _ _ => rfl) (fun _ _ => rfl) fun _ _ => rfl) hg

theorem memRead16_accFree (a : Nat) : AccFree fun s => memRead16 s a := fun _ _ => rfl

theorem memRead32_accFree (a : Nat) : AccFree fun s => memRead32 s a := fun _ _ => rfl

theorem readSetpoints_accFree (a n : Nat) : AccFree fun s => readSetpoints s a n := by
  intro s acc
  induction n generalizing a with
  | zero => rfl
  | succ n ih =>
    simp only [readSetpoints, memRead16_accFree _ s acc, ih]

theorem readBatch_accFree (n : Nat) : AccFree fun s => readBatch s n := by
  intro s acc
  simp only [readBatch, memRead16_accFree _ s acc, readSetpoints_accFree _ _ s acc]

theorem setCoefficients_withAcc (kp ki kd : F32) (s : State) (acc : U32) :
    setCoefficients kp ki kd (s.withAcc acc) =
      ((setCoefficients kp ki kd s).1.withAcc acc, (setCoefficients kp ki kd s).2) := by
  simp only [setCoefficients, State.withAcc_cfg]
  split <;> rfl

theorem servePing_accBlind : AccBlind servePing :=
  .pidOnly (.reply (fun _ _ => rfl) (fun _ _ => rfl) fun _ _ => rfl)

theorem serveSelftest_accBlind : AccBlind serveSelftest :=
  .pidOnly (.reply (fun _ _ => rfl) (fun _ _ => rfl) fun _ _ => rfl)

theorem serveReadvalue_accBlind : AccBlind serveReadvalue :=
  .pidOnly (.reply (fun _ _ => rfl) (fun _ _ => rfl) fun _ _ => rfl)

theorem serveSleep_accBlind : AccBlind serveSleep :=
  .pidOnly (.reply (fun _ _ => rfl) (fun _ _ => rfl) fun _ _ => rfl)

theorem serveUnknown_accBlind : AccBlind serveUnknown :=
  .pidOnly (.replyError (fun _ _ => rfl) fun _ _ => rfl)

theorem serveDiagPing_accBlind : AccBlind serveDiagPing := .pidOnly (.ok fun _ _ => rfl)

theorem serveDiagSelftest_accBlind : AccBlind serveDiagSelftest := .pidOnly (.ok fun _ _ => rfl)

theorem serveDiagValue_accBlind : AccBlind serveDiagValue := .pidOnly (.ok fun _ _ => rfl)

theorem replyToSetcoeff_accBlind (status : U16) : AccBlind (replyToSetcoeff status) :=
  .cond (fun _ _ => rfl) (.replyError (fun _ _ => rfl) fun _ _ => rfl)
    (.reply (fun _ _ => rfl) (fun _ _ => rfl) fun _ _ => rfl)

theorem replyToSetbatch_accBlind (status : U16) : AccBlind (replyToSetbatch status) :=
  .cond (fun _ _ => rfl) (.replyError (fun _ _ => rfl) fun _ _ => rfl)
    (.reply (fun _ _ => rfl) (fun _ _ => rfl) fun _ _ => rfl)

theorem serveSetcoeff_accBlind : AccBlind serveSetcoeff := by
  refine .cond (fun _ _ => rfl) (.replyError (fun _ _ => rfl) fun _ _ => rfl) ?_
  refine .bind_read (memRead32_accFree 0) fun kp => ?_
  refine .bind_read (memRead32_accFree 4) fun ki => ?_
  refine .bind_read (memRead32_accFree 8) fun kd => ?_
  exact .of_read (f := fun status s => replyToSetcoeff status (setCoefficients kp ki kd s).1)
    (fun s acc => by rw [setCoefficients_withAcc]) fun status =>
      (replyToSetcoeff_accBlind status).comp fun s acc => by rw [setCoefficients_withAcc]

theorem offerPayload_accBlind : AccBlind offerPayload := by
  refine .cond (fun _ _ => rfl) (.replyError (fun _ _ => rfl) fun _ _ => rfl) ?_
  refine .bind_read (memRead16_accFree 4) fun n => ?_
  refine .cond (fun _ _ => rfl) (.replyError (fun _ _ => rfl) fun _ _ => rfl) ?_
  refine .bind_read (readBatch_accFree n.toNat) fun b => ?_
  exact .of_read (f := fun status s => replyToSetbatch status (enqueue b s)) (fun _ _ => rfl)
    fun status => (replyToSetbatch_accBlind status).comp fun _ _ => rfl

theorem serveSetbatch_accBlind : AccBlind serveSetbatch := .pidOnly offerPayload_accBlind

/-- The service routine does not see CK.acc (R98). -/
theorem service_accBlind : AccBlind service := by
  refine .cond (fun _ _ => rfl) servePing_accBlind ?_
  refine .cond (fun _ _ => rfl) serveSelftest_accBlind ?_
  refine .cond (fun _ _ => rfl) serveReadvalue_accBlind ?_
  refine .cond (fun _ _ => rfl) serveSetcoeff_accBlind ?_
  refine .cond (fun _ _ => rfl) serveSetbatch_accBlind ?_
  exact .cond (fun _ _ => rfl) serveSleep_accBlind serveUnknown_accBlind

/-! ### Boot and the receiver -/

theorem bootOnce_accBlind (strap : BitVec 4) : AccBlind (bootOnce strap) := by
  intro s acc
  simp only [bootOnce, bootIdentity, State.withAcc_blk, State.withAcc_cfg]
  split
  · split <;> rfl
  · rfl
  · rfl

theorem startReceiver_accStable : AccStable startReceiver :=
  .cond (fun _ _ => rfl) (fun _ _ => rfl) fun _ _ => rfl

theorem readTimeout_accStable : AccStable readTimeout :=
  .cond (fun _ _ => rfl) (fun _ _ => rfl) fun _ _ => rfl

theorem rxHeaderStart_accStable (b : Byte) : AccStable (rxHeaderStart b) :=
  .cond (fun _ _ => rfl) (fun _ _ => rfl) fun _ _ => rfl

theorem rxAddress_accBlind (b : Byte) : AccBlind (rxAddress b) := by
  have hstart : AccBlind fun s => .ok (rxHeaderStart b s) := .ok (rxHeaderStart_accStable b)
  intro s acc
  simp only [rxAddress, State.withAcc_self]
  cases s.self with
  | known id =>
    exact AccBlind.cond (p := fun _ => b = id.diagPing) (fun _ _ => rfl) serveDiagPing_accBlind
      (.cond (p := fun _ => b = id.diagSelftest) (fun _ _ => rfl) serveDiagSelftest_accBlind
        (.cond (p := fun _ => b = id.diagValue) (fun _ _ => rfl) serveDiagValue_accBlind hstart)) s acc
  | unread => exact hstart s acc
  | invalid => exact hstart s acc

theorem rxPayload_accBlind (b : Byte) : AccBlind (rxPayload b) :=
  .bind (.cond (fun _ _ => rfl) (.ok fun _ _ => rfl) (.error _)) (.ok fun _ _ => rfl)

/-- The verify of a frame computes its checksum afresh and does not see CK.acc (R25, R93). -/
theorem verifyFrame_accBlind : AccBlind verifyFrame :=
  .bind_read (x := framePayload) (fun _ _ => rfl) fun _ =>
    .cond (fun _ _ => rfl) service_accBlind (.ok fun _ _ => rfl)

theorem rxFooter_accBlind (b : Byte) : AccBlind (rxFooter b) :=
  .cond (fun _ _ => rfl) (verifyFrame_accBlind.comp fun _ _ => rfl) (.ok fun _ _ => rfl)

theorem drainEnd_accBlind : AccBlind drainEnd := by
  have hreply : AccBlind fun s => pidOnly s (replyError s.cfg.errTooLarge s) :=
    .pidOnly (.replyError (fun _ _ => rfl) fun _ _ => rfl)
  intro s acc
  simp only [drainEnd, State.withAcc_fs]
  cases s.fs.drainKind with
  | drop => rfl
  | oversize =>
    exact AccBlind.cond (p := fun s => s.fs.bcast = true) (fun _ _ => rfl)
      (.ok (g := fun s => s) fun _ _ => rfl) hreply s acc

theorem rxDrain_accBlind : AccBlind rxDrain :=
  .cond (fun _ _ => rfl) (drainEnd_accBlind.comp fun _ _ => rfl) (.ok fun _ _ => rfl)

/-- A received byte does not see CK.acc (R25). -/
theorem rxByte_accBlind (b : Byte) : AccBlind (rxByte b) := by
  intro s acc
  simp only [rxByte, State.withAcc_fs]
  cases s.fs.state with
  | stopped | hdrType | hdrSizeLo | hdrSizeHi | halted => rfl
  | awaitAddr => exact rxAddress_accBlind b s acc
  | payload => exact rxPayload_accBlind b s acc
  | footer => exact rxFooter_accBlind b s acc
  | drain => exact rxDrain_accBlind s acc

/-! ### The tick -/

theorem tickPrepare_accBlind (p : F32) : AccBlind (tickPrepare p) :=
  .bind_read (x := fun s => tickActivate (tickFetch { s.sch with tickPending := false }))
    (fun _ _ => rfl) fun _ => .ok fun _ _ => rfl

theorem tickReactivate_accStable : AccStable tickReactivate :=
  .cond (fun _ _ => rfl) (fun _ _ => rfl) fun _ _ => rfl

theorem tickRender_accStable : AccStable tickRender := by
  intro s acc
  simp only [tickRender, tickReactivate_accStable s acc]
  rfl

theorem tickPlay_accBlind : AccBlind tickPlay := by
  have hadvance (b : Batch) : AccBlind fun t =>
      tickAdvance t.cfg b t.sch >>= fun r => .ok { t with sch := r } :=
    .bind_read (x := fun t => tickAdvance t.cfg b t.sch) (fun _ _ => rfl) fun _ =>
      .ok fun _ _ => rfl
  intro s acc
  simp only [tickPlay, State.withAcc_sch]
  cases s.sch.cur with
  | none => rfl
  | some b =>
    exact AccBlind.cond (p := fun s => s.sch.loops = 0) (fun _ _ => rfl)
      (.ok (g := tickExhausted) fun _ _ => rfl) ((hadvance b).comp tickRender_accStable) s acc

theorem pendingTick_accBlind (p : F32) : AccBlind (pendingTick p) :=
  .cond (fun _ _ => rfl) (.bind (tickPrepare_accBlind p) tickPlay_accBlind) (.ok fun _ _ => rfl)

/-! ### Every body, and the gates -/

/-- No body but those of the checksum operations sees CK.acc. -/
theorem bodyOf_accBlind {i : Instr} (hreset : i ≠ .ckReset) (hupdate : ∀ b, i ≠ .ckUpdate b)
    (hmany : ∀ bs, i ≠ .ckUpdateMany bs) (hvalue : i ≠ .ckValue) : AccBlind (bodyOf i) := by
  cases i
  case ckReset | ckValue => contradiction
  case ckUpdate b => exact absurd rfl (hupdate b)
  case ckUpdateMany bs => exact absurd rfl (hmany bs)
  case blkBoot strap => exact bootOnce_accBlind strap
  case fsStart => exact .ok startReceiver_accStable
  case fsTimeout => exact .ok readTimeout_accStable
  case fsRxbyte b => exact rxByte_accBlind b
  case schTick p => exact pendingTick_accBlind p
  case pidSetcoef kp ki kd =>
    refine .ok fun s acc => ?_
    rw [setCoefficients_withAcc]
    rfl
  case mtPing => exact servePing_accBlind
  case mtSelftest => exact serveSelftest_accBlind
  case mtReadvalue => exact serveReadvalue_accBlind
  case mtSetcoeff => exact serveSetcoeff_accBlind
  case mtSetbatch => exact serveSetbatch_accBlind
  case mtSleep => exact serveSleep_accBlind
  case mtError => exact serveUnknown_accBlind
  case diagPing => exact serveDiagPing_accBlind
  case diagSelftest => exact serveDiagSelftest_accBlind
  case diagValue => exact serveDiagValue_accBlind
  all_goals exact .ok fun _ _ => rfl

/-- A fault is raised over the state as it is, CK.acc included (R141). -/
theorem commit_withAcc (s : State) (acc : U32) (body : Body State) :
    commit (s.withAcc acc) (body.map (·.withAcc acc)) = outcomeWithAcc acc (commit s body) := by
  match body with
  | .ok t => rfl
  | .error (.raise info) => rfl
  | .error (.fault f) => rfl
  | .error (.refused r) => rfl

theorem configGate_withAcc (c : Config) (a : Bool) (acc : U32)
    (run : Host.Outcome State Fault Refusal) :
    configGate c a (outcomeWithAcc acc run) = outcomeWithAcc acc (configGate c a run) := by
  unfold configGate
  split
  · split <;> rfl
  · rfl

theorem modeGate_withAcc (op : Byte) (s : State) (acc : U32) (body : Body State) :
    modeGate op (s.withAcc acc) (body.map (·.withAcc acc)) =
      outcomeWithAcc acc (modeGate op s body) := by
  have hcommit := commit_withAcc s acc body
  unfold modeGate
  simp only [State.withAcc_blk]
  split
  case h_1 => rfl
  case h_2 =>
    split
    case h_1 | h_2 | h_3 => exact hcommit
    all_goals rfl
  case h_3 =>
    split
    case h_1 =>
      have hcfg : (s.withAcc acc).cfg = s.cfg := rfl
      by_cases hport : s.cfg.portInternal = true
      · rw [if_pos hport, if_pos (hcfg ▸ hport)]
        exact hcommit
      · rw [if_neg hport, if_neg (hcfg ▸ hport)]
        rfl
    case h_2 => rfl
    all_goals exact hcommit

theorem wireGate_withAcc (s : State) (acc : U32) (body : Body State) :
    wireGate (s.withAcc acc) (body.map (·.withAcc acc)) =
      outcomeWithAcc acc (wireGate s body) := by
  unfold wireGate
  rw [← configGate_withAcc]
  simp only [State.withAcc_blk, State.withAcc_cfg]
  cases s.blk.mode with
  | halted | boot => rfl
  | run => rw [commit_withAcc]

/-- The gates do not see CK.acc. -/
theorem gated_withAcc (op : Option Byte) (s : State) (acc : U32) (body : Body State) :
    gated op (s.withAcc acc) (body.map (·.withAcc acc)) =
      outcomeWithAcc acc (gated op s body) := by
  cases op with
  | none => exact wireGate_withAcc s acc body
  | some op =>
    unfold gated portGate
    simp only [modeGate_withAcc, State.withAcc_cfg]
    exact configGate_withAcc ..

/-- An operation whose body does not see CK.acc answers the same whatever CK.acc holds, up to CK.acc. -/
theorem exec_withAcc {i : Instr} (hi : AccBlind (bodyOf i)) (s : State) (acc : U32) :
    exec i (s.withAcc acc) = outcomeWithAcc acc (exec i s) := by
  rw [exec_eq, exec_eq, hi s acc, gated_withAcc]

/-- An operation whose body does not see CK.acc leaves it as it is. -/
theorem exec_keeps_ckAcc {i : Instr} (hi : AccBlind (bodyOf i)) {s t : State}
    (h : exec i s = .next t) : t.ckAcc = s.ckAcc := by
  have hsame : s.withAcc s.ckAcc = s := rfl
  have hrun := exec_withAcc hi s s.ckAcc
  rw [hsame, h] at hrun
  have hnext : t = t.withAcc s.ckAcc := by injection hrun
  rw [hnext]
  rfl

/-- Settles O23, by running the operation a second time with another value in CK.acc. -/
theorem frameTrafficLeavesAccumulator : Obligations.FrameTrafficLeavesAccumulator := by
  intro i s acc hreset hupdate hmany hvalue
  have hblind := bodyOf_accBlind hreset hupdate hmany hvalue
  have hrun := exec_withAcc hblind s acc
  refine ⟨fun t h => ⟨exec_keeps_ckAcc hblind h, ?_⟩, fun f h => ?_, fun r h => ?_⟩ <;>
    rw [h] at hrun <;> exact hrun

end Sys2Proof.Machine

namespace Sys2Proof.Machine

/-! ### PBUF (R38) -/

/-- Among the bodies only that of FS.RXBYTE writes PBUF. -/
theorem bodyOf_pbuf {i : Instr} {s t : State} (h : bodyOf i s = .ok t)
    (hbyte : ∀ b, i ≠ .fsRxbyte b) : t.pbuf = s.pbuf := by
  by_cases hi : opcodeOf i = none
  · exact (bodyOf_service_frame hi h).pbuf
  cases i <;> simp only [opcodeOf, not_true_eq_false] at hi
  case fsRxbyte b => exact absurd rfl (hbyte b)
  case schTick p => exact (pendingTick_frame h).pbuf
  case pidSetcoef kp ki kd => cases h; exact (ServiceFrame.coefficients kp ki kd s).pbuf
  case blkBoot strap =>
    simp only [bodyOf, bootOnce] at h
    split at h <;> cases h
    unfold bootIdentity
    split <;> rfl
  case fsStart => cases h; unfold startReceiver; split <;> rfl
  case fsTimeout => cases h; unfold readTimeout; split <;> rfl
  all_goals cases h; rfl

/-- A received byte leaves every byte of PBUF but the one it captures (R92). -/
theorem ReceiveCases.read_other {b : Byte} {s t : State} {a : Nat} (h : ReceiveCases b s t)
    (ha : s.fs.state ≠ .payload ∨ a ≠ s.fs.count.toNat) :
    Memory.read t.pbuf a = Memory.read s.pbuf a := by
  cases h with
  | moved f ht => rw [ht]
  | captured hpayload _ ht =>
    rw [ht]
    exact Memory.read_write_other (ha.resolve_left (not_not_intro hpayload))
  | serviced f _ hframe => rw [hframe.pbuf]

/-- Settles O24: a fault and a lapsed offer leave PBUF as it is, and among the bodies only that of a received
byte writes it. -/
theorem memoryWrittenByCaptureOnly : Obligations.MemoryWrittenByCaptureOnly := by
  intro i s t a h hwhere
  obtain hbody | rfl | ⟨info, rfl⟩ := exec_next_body h
  · by_cases hbyte : ∃ b, i = .fsRxbyte b
    · obtain ⟨b, rfl⟩ := hbyte
      exact (rxByte_cases hbody).read_other (hwhere.resolve_left fun hno => hno b rfl)
    · rw [bodyOf_pbuf hbody (not_exists.mp hbyte)]
  · rfl
  · rfl

/-! ### What a legal configuration gives (R10) -/

theorem ok_typesOk {c : Config} (h : c.ok = true) : c.typesOk = true := by
  simp only [Config.ok, Bool.and_eq_true] at h
  exact h.2

/-- The payload sizes a legal configuration allows (R10). -/
theorem ok_maxPayload {c : Config} (h : c.ok = true) : 12 ≤ c.maxPayload ∧ c.maxPayload ≤ 65535 := by
  simp only [Config.ok, Config.sizesOk, Bool.and_eq_true, decide_eq_true_eq] at h
  omega

/-- A full batch is one that its u16 count and one frame can carry, and there is room for one setpoint (R61). -/
theorem ok_maxSp {c : Config} (h : c.ok = true) : 1 ≤ c.maxSp ∧ c.maxSp < 2 ^ 16 := by
  have := ok_maxPayload h
  unfold Config.maxSp
  omega

theorem ok_ckInit {c : Config} (h : c.ok = true) : c.ckTrunc c.ckInit = c.ckInit := by
  have := ok_typesOk h
  simp only [Config.typesOk, Bool.and_eq_true, decide_eq_true_eq] at this
  tauto

/-- DRIVE_MAX is at least 0 and at most 127.0 (log 10). -/
theorem ok_driveMax {c : Config} (h : c.ok = true) :
    F32.le 0 c.driveMax = true ∧ F32.le c.driveMax 0x42FE0000#32 = true := by
  have := ok_typesOk h
  simp only [Config.typesOk, Bool.and_eq_true] at this
  tauto

/-- A strap pattern names an identity of the configuration (R8, R84). -/
theorem identityOf_mem {c : Config} {strap : BitVec 4} {id : Identity} (h : c.ok = true)
    (hid : c.identityOf strap = some id) : id ∈ c.identities := by
  obtain ⟨row, hrow, rfl⟩ := Option.map_eq_some_iff.mp hid
  have htypes := ok_typesOk h
  simp only [Config.typesOk, Bool.and_eq_true, List.all_eq_true, decide_eq_true_eq] at htypes
  exact htypes.1.1.2 row (List.mem_of_find?_eq_some hrow)

theorem ckb_pos (c : Config) : 0 < c.ckb := by
  unfold Config.ckb
  split <;> decide

theorem ckb_le (c : Config) : c.ckb ≤ 4 := by
  unfold Config.ckb
  split <;> decide

/-! ### Checksum registers keep CK_WIDTH bits (R24, R28, R76) -/

@[simp] theorem ckTrunc_ckTrunc (c : Config) (v : U32) : c.ckTrunc (c.ckTrunc v) = c.ckTrunc v := by
  unfold Config.ckTrunc
  split
  · rw [BitVec.and_assoc, BitVec.and_self]
  · rfl

@[simp] theorem ckTrunc_zero (c : Config) : c.ckTrunc 0 = 0 := by
  unfold Config.ckTrunc
  split <;> rfl

theorem ckTrunc_crcShift (c : Config) (acc : U32) : c.ckTrunc (crcShift c acc) = crcShift c acc := by
  unfold crcShift
  split <;> exact ckTrunc_ckTrunc c _

/-- From the first shift on the register holds CK_WIDTH bits. -/
theorem ckTrunc_crcShifts (c : Config) (k : Nat) (acc : U32) :
    c.ckTrunc (crcShifts c (k + 1) acc) = crcShifts c (k + 1) acc := by
  induction k generalizing acc with
  | zero => exact ckTrunc_crcShift c acc
  | succ k ih => exact ih (crcShift c acc)

theorem ckTrunc_crcStep (c : Config) (acc : U32) (b : Byte) :
    c.ckTrunc (crcStep c acc b) = crcStep c acc b := ckTrunc_crcShifts c 7 _

theorem ckTrunc_crcMany {c : Config} {acc : U32} (h : c.ckTrunc acc = acc) (bs : List Byte) :
    c.ckTrunc (crcMany c acc bs) = crcMany c acc bs := by
  induction bs generalizing acc with
  | nil => exact h
  | cons b bs ih => exact ih (ckTrunc_crcStep c acc b)

@[simp] theorem ckTrunc_footerWith (c : Config) (b : Byte) (f : FsRegs) :
    c.ckTrunc (footerWith c b f) = footerWith c b f := ckTrunc_ckTrunc c _

/-! ### The drive value (R127, R128, R16) -/

/-- A guarded value lies within the drive range, whatever it was before (R127). -/
theorem guardedDrive_inDriveRange {c : Config} (h : c.ok = true) (x : F32) :
    inDriveRange c (guardedDrive c x) := by
  refine F32.clamp_between ?_ (F32.neg_le_self (ok_driveMax h).1)
  split
  · exact F32.not_isNaN_of_finite ‹_›
  · decide

/-- A magnitude of at most 127.0 is at most 127 units of 1 (R15). -/
theorem F32.units_le_of_magnitude_le {a : F32} (h : F32.magnitude a ≤ 0x42FE0000) :
    F32.units a ≤ 127 * 2 ^ 149 := by
  have hfrac : F32.fraction a = F32.magnitude a % 2 ^ 23 := by
    unfold F32.fraction F32.magnitude
    omega
  have hexp : F32.exponent a = F32.magnitude a / 2 ^ 23 := rfl
  unfold F32.units
  split
  · omega
  · rcases Nat.lt_or_ge (F32.exponent a) 133 with hlow | hhigh
    · calc (F32.fraction a + 2 ^ 23) * 2 ^ (F32.exponent a - 1)
          ≤ 2 ^ 24 * 2 ^ 131 :=
            Nat.mul_le_mul (by omega) (Nat.pow_le_pow_right (by decide) (by omega))
        _ ≤ 127 * 2 ^ 149 := by decide
    · have hexp133 : F32.exponent a = 133 := by omega
      rw [hexp133]
      omega

/-- The magnitude of a value between `-m` and `m` is at most that of 127.0 when `m` is. -/
theorem inDriveRange.magnitude_le {c : Config} (hc : c.ok = true) {x : F32} (h : inDriveRange c x) :
    F32.magnitude x ≤ 0x42FE0000 := by
  obtain ⟨-, -, hmax⟩ := (F32.le_iff _ _).mp (ok_driveMax hc).2
  obtain ⟨-, -, hlo⟩ := (F32.le_iff _ _).mp h.1
  obtain ⟨-, -, hhi⟩ := (F32.le_iff _ _).mp h.2
  rw [show F32.key 0x42FE0000#32 = 0x42FE0000 by decide] at hmax
  rw [F32.key_neg] at hlo
  have hkey : F32.key x = F32.magnitude x ∨ F32.key x = -F32.magnitude x := by
    unfold F32.key
    split <;> simp
  omega

/-- The drive value of a number in the drive range is no i8 below -127 (R16, R31). -/
theorem inDriveRange.truncI8_ge {c : Config} (hc : c.ok = true) {x : F32} (h : inDriveRange c x) :
    -127 ≤ (F32.truncI8 x).toInt := by
  have hunits := F32.units_le_of_magnitude_le (h.magnitude_le hc)
  have hsigned : F32.signedUnits x = F32.units x ∨ F32.signedUnits x = -F32.units x := by
    unfold F32.signedUnits
    split <;> simp
  have habs : ((F32.signedUnits x).tdiv (2 ^ 149)).natAbs ≤ 127 := by
    rw [Int.natAbs_tdiv]
    refine Nat.div_le_of_le_mul ?_
    have : (F32.signedUnits x).natAbs = F32.units x := by omega
    rw [this]
    exact hunits.trans (by decide)
  unfold F32.truncI8
  rw [BitVec.toInt_ofInt, Int.bmod_eq_of_le (by omega) (by omega)]
  omega

end Sys2Proof.Machine

namespace Sys2Proof.Machine

/-! ### The invariant, part by part: what each part reads (R8, R23 to R33)

A part of the invariant that reads only registers an operation leaves as they were carries over; so a proof
about an operation has to speak of the registers it writes, and of no other. -/

theorem ModeInv.congr {s t : State} (h : ModeInv s) (hcfg : t.cfg = s.cfg) (hblk : t.blk = s.blk)
    (hself : t.self = s.self) (hfs : t.fs = s.fs)
    (htick : s.blk.mode = .boot → t.sch.tickPending = false) : ModeInv t where
  boot := by
    rw [hblk, hself, hfs]
    intro hm
    obtain ⟨hunread, hstopped, -, hfault⟩ := h.boot hm
    exact ⟨hunread, hstopped, htick hm, hfault⟩
  run := by
    rw [hblk, hself, hfs, hcfg]
    exact h.run
  halted := by
    rw [hblk, hself, hfs]
    exact h.halted
  record := by
    rw [hblk]
    exact h.record

theorem isSelf_congr {s t : State} (hself : t.self = s.self) (a : Byte) : isSelf t a = isSelf s a := by
  unfold isSelf
  rw [hself]

theorem AcceptedFrame.congr {s t : State} (h : AcceptedFrame s) (hcfg : t.cfg = s.cfg)
    (hself : t.self = s.self) (hfs : t.fs = s.fs) : AcceptedFrame t := by
  unfold AcceptedFrame
  rw [isSelf_congr hself, hcfg, hfs]
  exact h

theorem FrameInv.congr {s t : State} (h : FrameInv s) (hcfg : t.cfg = s.cfg) (hself : t.self = s.self)
    (hfs : t.fs = s.fs) : FrameInv t where
  payload := by
    rw [hfs]
    exact fun hst => ⟨(h.payload hst).1.congr hcfg hself hfs, (h.payload hst).2⟩
  footer := by
    rw [hfs, hcfg]
    exact fun hst => ⟨(h.footer hst).1.congr hcfg hself hfs, (h.footer hst).2⟩
  drain := by
    rw [hfs, hcfg]
    exact h.drain
  oversize := by
    rw [isSelf_congr hself, hfs, hcfg]
    exact h.oversize

/-- A receiver that has no frame past its header holds nothing to a frame. -/
theorem FrameInv.of_no_frame {s : State} (hp : s.fs.state ≠ .payload) (hf : s.fs.state ≠ .footer)
    (hd : s.fs.state ≠ .drain) : FrameInv s :=
  ⟨fun h => absurd h hp, fun h => absurd h hf, fun h => absurd h hd, fun h => absurd h hd⟩

theorem SchedulerInv.congr {s t : State} (h : SchedulerInv s) (hcfg : t.cfg = s.cfg)
    (hsch : t.sch = s.sch) : SchedulerInv t where
  depth := by rw [hsch, hcfg]; exact h.depth
  queued := by rw [hsch, hcfg]; exact h.queued
  next := by rw [hsch, hcfg]; exact h.next
  current := by rw [hsch, hcfg]; exact h.current
  drive := by rw [hsch]; exact h.drive

theorem PidInv.congr {s t : State} (h : PidInv s) (hcfg : t.cfg = s.cfg)
    (hinteg : t.pid.integ = s.pid.integ) : PidInv t := by
  unfold PidInv
  rw [hcfg, hinteg]
  exact h

/-- Parameters, block registers, checksum register, identity, receiver and PBUF are as they were: what
scheduler, controller and render operations and the services leave. -/
structure KeepsReceiver (s t : State) : Prop where
  cfg : t.cfg = s.cfg
  blk : t.blk = s.blk
  ckAcc : t.ckAcc = s.ckAcc
  self : t.self = s.self
  fs : t.fs = s.fs
  pbuf : t.pbuf = s.pbuf

theorem ServiceFrame.keepsReceiver {s t : State} (h : ServiceFrame s t) : KeepsReceiver s t :=
  ⟨h.cfg, h.blk, h.ckAcc, h.self, h.fs, h.pbuf⟩

theorem TickFrame.keepsReceiver {s t : State} (h : TickFrame s t) : KeepsReceiver s t :=
  ⟨h.cfg, h.blk, h.ckAcc, h.self, h.fs, h.pbuf⟩

/-- An operation that leaves the receiver keeps the invariant when it keeps the scheduler's and the PID
controller's part; before boot it leaves no tick pending. -/
theorem Inv.of_keepsReceiver {s t : State} (h : Inv s) (hkeeps : KeepsReceiver s t)
    (htick : s.blk.mode = .boot → t.sch.tickPending = false) (hsch : SchedulerInv t)
    (hpid : PidInv t) : Inv t := by
  obtain ⟨hcfg, hblk, hacc, hself, hfs, hpbuf⟩ := hkeeps
  refine ⟨?_, ?_, ?_, h.mode.congr hcfg hblk hself hfs htick, h.frame.congr hcfg hself hfs, hsch, hpid⟩
  · rw [hcfg]
    exact h.config
  · unfold MemoryInv
    rw [hcfg, hpbuf]
    exact h.memory
  · unfold ChecksumInv
    rw [hcfg, hacc, hfs]
    exact h.checksum

/-- The render registers, the coefficients, the setpoint, the result word, the events, the draws and the port
are free: the invariant reads none of them. -/
theorem Inv.congr {s t : State} (h : Inv s) (hkeeps : KeepsReceiver s t) (hsch : t.sch = s.sch)
    (hinteg : t.pid.integ = s.pid.integ) : Inv t := by
  refine h.of_keepsReceiver hkeeps (fun hm => ?_) (h.scheduler.congr hkeeps.cfg hsch)
    (h.pid.congr hkeeps.cfg hinteg)
  rw [hsch]
  exact (h.mode.boot hm).2.2.1

theorem Inv.withPort {s : State} (h : Inv s) (cs : List Command) : Inv (s.withPort cs) :=
  h.congr ⟨rfl, rfl, rfl, rfl, rfl, rfl⟩ rfl rfl

/-- A raised fault keeps the invariant, in every mode: it writes the fault record and HALTED (R141). -/
theorem Inv.raise {s : State} (h : Inv s) (info : FaultInfo) : Inv (s.raise info) where
  config := h.config
  memory := h.memory
  checksum := h.checksum
  mode := ⟨nofun, nofun, fun _ => ⟨rfl, .inl rfl⟩, rfl⟩
  frame := .of_no_frame nofun nofun nofun
  scheduler := h.scheduler.congr rfl rfl
  pid := h.pid

/-- The checksum register may hold any CK_WIDTH bits. -/
theorem Inv.withAcc {s : State} (h : Inv s) {acc : U32} (hacc : s.cfg.ckTrunc acc = acc) :
    Inv (s.withAcc acc) where
  config := h.config
  memory := h.memory
  checksum := ⟨hacc, h.checksum.2⟩
  mode := h.mode.congr rfl rfl rfl rfl fun hm => (h.mode.boot hm).2.2.1
  frame := h.frame.congr rfl rfl rfl
  scheduler := h.scheduler.congr rfl rfl
  pid := h.pid

/-- In RUN the receiver may move to any registers that meet its part of the invariant. -/
theorem Inv.withReceiver {s : State} {f : FsRegs} (h : Inv s) (hm : s.blk.mode = .run)
    (hstate : f.state ≠ .halted) (hfoot : s.cfg.ckTrunc f.foot = f.foot)
    (hframe : FrameInv { s with fs := f }) : Inv { s with fs := f } where
  config := h.config
  memory := h.memory
  checksum := ⟨h.checksum.1, hfoot⟩
  mode :=
    { boot := fun hb => nomatch hm.symm.trans hb
      run := fun _ => ⟨(h.mode.run hm).1, hstate, (h.mode.run hm).2.2⟩
      halted := fun hh => nomatch hm.symm.trans hh
      record := h.mode.record }
  frame := hframe
  scheduler := h.scheduler.congr rfl rfl
  pid := h.pid

/-! ### The scheduler's part: queue operations (R121, R122) -/

theorem enqueueBatch_length_le {c : Config} {b : Batch} {q : List Batch} (h : q.length ≤ c.qdepth) :
    (enqueueBatch c b q).1.length ≤ c.qdepth := by
  unfold enqueueBatch
  split
  · exact h
  · split
    · rw [List.length_append]
      exact ‹q.length < c.qdepth›
    · exact h

/-- A batch that one frame cannot carry is not queued (R121). -/
theorem enqueueBatch_mem {c : Config} {b x : Batch} {q : List Batch}
    (h : x ∈ (enqueueBatch c b q).1) : x ∈ q ∨ x.count ≤ c.maxSp := by
  unfold enqueueBatch at h
  split at h
  · exact .inl h
  · rename_i hsize
    split at h
    · obtain hx | hx := List.mem_append.mp h
      · exact .inl hx
      · obtain rfl := List.mem_singleton.mp hx
        exact .inr (not_lt.mp hsize)
    · exact .inl h

theorem SchedulerInv.enqueue {s : State} (h : SchedulerInv s) (b : Batch) :
    SchedulerInv (enqueue b s) where
  depth := enqueueBatch_length_le h.depth
  queued := fun x hx => (enqueueBatch_mem hx).elim (h.queued x) id
  next := h.next
  current := h.current
  drive := h.drive

theorem SchedulerInv.stop {s : State} (h : SchedulerInv s) (hc : s.cfg.ok = true) :
    SchedulerInv (stopMotion s) where
  depth := Nat.zero_le _
  queued := nofun
  next := by
    rintro b ⟨⟩
    exact (ok_maxSp hc).1
  current := h.current
  drive := h.drive

theorem ServiceEffect.schedulerInv {i : Instr} {s u : State} (h : ServiceEffect s i u)
    (hc : s.cfg.ok = true) (hs : SchedulerInv s) : SchedulerInv u := by
  cases h with
  | none => exact hs
  | offers _ b => exact hs.enqueue b
  | stops => exact hs.stop hc
  | draws => exact hs.congr rfl rfl
  | loads kp ki kd =>
    obtain ⟨p, hp, -⟩ := setCoefficients_cases kp ki kd s
    rw [hp]
    exact hs.congr rfl rfl

/-- Every service keeps the invariant (R98 to R108). -/
theorem Inv.service {i : Instr} {s t : State} (h : Inv s) (hi : opcodeOf i = none)
    (hbody : bodyOf i s = .ok t) : Inv t := by
  have hframe := bodyOf_service_frame hi hbody
  obtain ⟨u, hu, ht⟩ := bodyOf_service_effect hi hbody
  have hcfg : t.cfg = u.cfg := by rw [ht]
  refine h.of_keepsReceiver hframe.keepsReceiver (fun hm => ?_)
    ((hu.schedulerInv h.config h.scheduler).congr hcfg (by rw [ht]))
    (h.pid.congr hframe.cfg (by rw [hframe.pid]))
  rw [hframe.sch]
  exact (h.mode.boot hm).2.2.1

/-! ### The scheduler's part: the tick (R111 to R120) -/

@[simp] theorem tickDropEmpty_queue (r : SchRegs) : (tickDropEmpty r).queue = r.queue := by
  unfold tickDropEmpty
  split
  · rfl
  · split <;> rfl

@[simp] theorem tickDropEmpty_next (r : SchRegs) : (tickDropEmpty r).next = r.next := by
  unfold tickDropEmpty
  split
  · rfl
  · split <;> rfl

@[simp] theorem tickDropEmpty_drive (r : SchRegs) : (tickDropEmpty r).drive = r.drive := by
  unfold tickDropEmpty
  split
  · rfl
  · split <;> rfl

/-- A batch that is current after step 4 has setpoints, and step 4 did nothing (R115). -/
theorem tickDropEmpty_cur {r : SchRegs} {b : Batch} (h : (tickDropEmpty r).cur = some b) :
    r.cur = some b ∧ b.count ≠ 0 ∧ tickDropEmpty r = r := by
  unfold tickDropEmpty at h ⊢
  cases hcur : r.cur with
  | none => simp [hcur] at h
  | some x =>
    simp only [hcur] at h ⊢
    split at h
    · cases h
    · rename_i hcount
      obtain rfl := Option.some.inj (hcur.symm.trans h)
      exact ⟨rfl, hcount, if_neg hcount⟩

/-- What steps 2 and 3 take from the slot or the queue, and what they leave there, is within the bounds
(R113). -/
theorem SlotHolds.bounded {s : State} {b : Batch} {q : List Batch} (hs : SlotHolds s.sch b q)
    (h : SchedulerInv s) :
    b.count ≤ s.cfg.maxSp ∧ q.length ≤ s.cfg.qdepth ∧ ∀ x ∈ q, x.count ≤ s.cfg.maxSp := by
  obtain ⟨hnext, rfl⟩ | ⟨-, hqueue⟩ := hs
  · exact ⟨h.next b hnext, h.depth, h.queued⟩
  · have hdepth := h.depth
    have hqueued := h.queued
    rw [hqueue] at hdepth hqueued
    exact ⟨hqueued b List.mem_cons_self, Nat.le_of_succ_le hdepth,
      fun x hx => hqueued x (List.mem_cons_of_mem b hx)⟩

/-- Steps 2 and 3 leave queue and next slot within their bounds and SCH.drive as it was (R113, R114). -/
theorem AfterSlots.slots_bounded {s : State} {r : SchRegs} (ha : AfterSlots s.sch r)
    (h : SchedulerInv s) :
    r.queue.length ≤ s.cfg.qdepth ∧ (∀ x ∈ r.queue, x.count ≤ s.cfg.maxSp) ∧
      (∀ x, r.next = some x → x.count ≤ s.cfg.maxSp) ∧ r.drive = s.sch.drive := by
  cases ha with
  | nothing => exact ⟨h.depth, h.queued, h.next, rfl⟩
  | waits b q hs hd =>
    obtain ⟨hb, hlen, hq⟩ := hs.bounded h
    refine ⟨hlen, hq, ?_, rfl⟩
    rintro x ⟨⟩
    exact hb
  | activates b q x hs =>
    obtain ⟨-, hlen, hq⟩ := hs.bounded h
    exact ⟨hlen, hq, nofun, rfl⟩
  | activatesEmpty b q hs =>
    obtain ⟨-, hlen, hq⟩ := hs.bounded h
    exact ⟨hlen, hq, nofun, rfl⟩

/-- A batch with setpoints that is current after steps 2 and 3 was current before, or has its first setpoint
loaded (R114). -/
theorem AfterSlots.playInv {s : State} {r : SchRegs} {b : Batch} (ha : AfterSlots s.sch r)
    (h : SchedulerInv s) (hcur : r.cur = some b) (hcount : b.count ≠ 0) :
    b.count ≤ s.cfg.maxSp ∧ PlayInv b r := by
  cases ha with
  | nothing => exact h.current b hcur
  | waits => exact h.current b hcur
  | activates b' q x hs _ hx =>
    obtain rfl := Option.some.inj hcur
    exact ⟨(hs.bounded h).1, playTicks_ne_zero _, x, hx, rfl⟩
  | activatesEmpty b' q _ _ hempty =>
    obtain rfl := Option.some.inj hcur
    exact absurd (congrArg List.length hempty) hcount

/-- Steps 1 to 4 keep the scheduler's part of the invariant (R111 to R115). -/
theorem tickPrepare_schedulerInv {p : F32} {s u : State} (h : SchedulerInv s)
    (hu : tickPrepare p s = .ok u) : SchedulerInv u := by
  obtain ⟨r, hr⟩ := tickActivate_total (tickFetch s.sch)
  have hafter := tickActivate_cases hr
  rw [tickPrepare_ok hafter] at hu
  cases hu
  obtain ⟨hdepth, hqueued, hnext, hdrive⟩ := hafter.slots_bounded h
  constructor
  case depth => simpa using hdepth
  case queued => simpa using hqueued
  case next => simpa using hnext
  case drive => simpa [hdrive] using h.drive
  case current =>
    intro b hb
    obtain ⟨hcur, hcount, hsame⟩ := tickDropEmpty_cur hb
    rw [hsame]
    exact hafter.playInv h hcur hcount

/-- Steps 1 to 4 leave the PID registers and the parameters (R111 to R115). -/
theorem tickPrepare_keeps {p : F32} {s u : State} (hu : tickPrepare p s = .ok u) :
    u.cfg = s.cfg ∧ u.pid = s.pid := by
  obtain ⟨r, hr⟩ := tickActivate_total (tickFetch s.sch)
  rw [tickPrepare_ok (tickActivate_cases hr)] at hu
  cases hu
  exact ⟨rfl, rfl⟩

/-- Step 8 keeps the play position in the batch (R119, R120). -/
theorem tickAdvance_playInv {c : Config} {b : Batch} {r r' : SchRegs} (h : PlayInv b r)
    (ha : tickAdvance c b r = .ok r') : PlayInv b r' := by
  obtain ⟨-, x, hx, htarget⟩ := h
  unfold tickAdvance at ha
  split at ha
  · split at ha
    · obtain ⟨y, hy, rfl⟩ := loadSetpoint_cases ha
      exact ⟨playTicks_ne_zero _, y, hy, rfl⟩
    · obtain ⟨y, hy, rfl⟩ := loadSetpoint_cases ha
      exact ⟨playTicks_ne_zero _, y, hy, rfl⟩
  · rename_i hrem
    cases ha
    exact ⟨hrem, x, hx, htarget⟩

/-- Step 7 renders with a drive value and an integrator in range, and leaves the rest of the scheduler but
SCH.render_active (R118, R127, R128). -/
theorem tickRender_inRange {s : State} (hc : s.cfg.ok = true) :
    (tickRender s).cfg = s.cfg ∧ PidInv (tickRender s) ∧ -127 ≤ (tickRender s).sch.drive.toInt ∧
      (tickRender s).sch =
        { s.sch with renderActive := true, drive := (tickRender s).sch.drive } := by
  obtain ⟨rnd, q, d, -, -, hd, hrender⟩ := tickRender_cases s
  rw [hrender]
  refine ⟨rfl, guardedDrive_inDriveRange hc _, ?_, rfl⟩
  rw [hd]
  exact inDriveRange.truncI8_ge hc (guardedDrive_inDriveRange hc _)

/-- Steps 5 to 8 keep the scheduler's and the PID controller's part of the invariant (R116 to R119). -/
theorem tickPlay_keeps_inv {s t : State} (hc : s.cfg.ok = true) (h : SchedulerInv s) (hp : PidInv s)
    (ht : tickPlay s = .ok t) : SchedulerInv t ∧ PidInv t := by
  cases hcur : s.sch.cur with
  | none =>
    rw [tickPlay_idle hcur] at ht
    cases ht
    refine ⟨⟨h.depth, h.queued, h.next, ?_, show -127 ≤ (0 : Byte).toInt by decide⟩, hp⟩
    intro b hb
    exact absurd (hcur.symm.trans hb) nofun
  | some b =>
    by_cases hl : s.sch.loops = 0
    · rw [tickPlay_exhausted hcur hl] at ht
      cases ht
      exact ⟨⟨h.depth, h.queued, h.next, nofun, h.drive⟩, hp⟩
    · simp only [tickPlay, hcur, if_neg hl] at ht
      obtain ⟨r, hr, ht⟩ := body_bind ht
      cases ht
      obtain ⟨hcfg, hpid, hdrive, hsch⟩ := tickRender_inRange (s := s) hc
      obtain ⟨hd, -, -, hq, hn, hcur'⟩ := tickAdvance_drive hr
      obtain ⟨hcount, hplay⟩ := h.current b hcur
      have hadvanced : PlayInv b r := by
        refine tickAdvance_playInv ?_ hr
        rw [hsch]
        exact hplay
      rw [hsch] at hq hn hcur'
      refine ⟨⟨?_, ?_, ?_, ?_, hd.symm ▸ hdrive⟩, hpid⟩
      · simpa [hq, hcfg] using h.depth
      · simpa [hq, hcfg] using h.queued
      · simpa [hn, hcfg] using h.next
      · intro b' hb'
        obtain rfl : b = b' := Option.some.inj (hcur.symm.trans (hcur'.symm.trans hb'))
        exact ⟨hcfg.symm ▸ hcount, hadvanced⟩

/-- A tick keeps the invariant; before boot none is pending (R111, R157). -/
theorem Inv.pendingTick {p : F32} {s t : State} (h : Inv s) (ht : pendingTick p s = .ok t) : Inv t := by
  obtain ⟨hpending, htick⟩ | ⟨-, rfl⟩ := pendingTick_cases ht
  · obtain ⟨u, hu, hplay⟩ := body_bind htick
    obtain ⟨hcfg, hpid⟩ := tickPrepare_keeps hu
    obtain ⟨hsch', hpid'⟩ := tickPlay_keeps_inv (hcfg.symm ▸ h.config)
      (tickPrepare_schedulerInv h.scheduler hu) (h.pid.congr hcfg (by rw [hpid])) hplay
    refine h.of_keepsReceiver (tick_frame htick).keepsReceiver (fun hm => ?_) hsch' hpid'
    exact nomatch hpending.symm.trans (h.mode.boot hm).2.2.1
  · exact h

end Sys2Proof.Machine

namespace Sys2Proof.Machine

/-! ### The receiver's part of the invariant (R88 to R94) -/

/-- The bytes a drain waits for: the payload and the footer, at least one (R91). -/
theorem drainLength_toNat (c : Config) (size : U16) :
    (drainLength c size).toNat = size.toNat + c.ckb := by
  have := ckb_le c
  have := size.isLt
  unfold drainLength
  rw [BitVec.toNat_add, BitVec.toNat_setWidth, BitVec.toNat_ofNat]
  omega

/-- The registers with the broadcast flag of their frame (R91). -/
def FsRegs.flagged (c : Config) (f : FsRegs) : FsRegs :=
  { f with bcast := decide (f.addr = c.broadcastAddr) }

/-- The ways to classify a frame: it is not for this board; it is and does not fit PBUF; it fits and has no
payload; it fits and has one (R91). -/
inductive ClassifyCases (c : Config) (toSelf : Bool) (f : FsRegs) : FsRegs → Prop where
  | dropped : ClassifyCases c toSelf f
      { f.flagged c with drainKind := .drop, drainRem := drainLength c f.size, state := .drain }
  | oversize : toSelf = true ∨ (f.flagged c).bcast = true → c.maxPayload < f.size.toNat →
      ClassifyCases c toSelf f
        { f.flagged c with drainKind := .oversize, drainRem := drainLength c f.size, state := .drain }
  | footer : toSelf = true ∨ (f.flagged c).bcast = true → f.size.toNat ≤ c.maxPayload →
      ClassifyCases c toSelf f { f.flagged c with count := 0, foot := 0, state := .footer }
  | payload : toSelf = true ∨ (f.flagged c).bcast = true → f.size.toNat ≤ c.maxPayload → f.size ≠ 0 →
      ClassifyCases c toSelf f { f.flagged c with count := 0, state := .payload }

theorem classify_cases (c : Config) (toSelf : Bool) (f : FsRegs) :
    ClassifyCases c toSelf f (classify c toSelf f) := by
  unfold classify
  dsimp only
  split
  · exact .dropped
  · rename_i hto
    have hto : toSelf = true ∨ (f.flagged c).bcast = true := by
      simpa [or_iff_not_imp_left, FsRegs.flagged] using hto
    split
    · exact .oversize hto ‹_›
    · rename_i hfits
      split
      · exact .footer hto (not_lt.mp hfits)
      · exact .payload hto (not_lt.mp hfits) ‹_›

/-- A classified frame meets the receiver's part of the invariant (R91). -/
theorem ClassifyCases.frameInv {s : State} {f g : FsRegs}
    (h : ClassifyCases s.cfg (isSelf s f.addr) f g) : FrameInv { s with fs := g } := by
  have hlen := drainLength_toNat s.cfg f.size
  have hpos : 0 < (drainLength s.cfg f.size).toNat := by
    have := ckb_pos s.cfg
    omega
  cases h with
  | dropped => exact ⟨nofun, nofun, fun _ => ⟨hpos, hlen.le⟩, nofun⟩
  | oversize hto hlarge =>
    exact ⟨nofun, nofun, fun _ => ⟨hpos, hlen.le⟩, fun _ _ => ⟨rfl, hto, hlarge⟩⟩
  | footer hto hfits =>
    exact ⟨nofun, fun _ => ⟨⟨rfl, hto, hfits⟩, ckb_pos s.cfg⟩, nofun, nofun⟩
  | payload hto hfits hsize =>
    have hsize : 0 < f.size.toNat := by bv_omega
    exact ⟨fun _ => ⟨⟨rfl, hto, hfits⟩, hsize⟩, nofun, nofun, nofun⟩

/-- Classification does not halt the receiver, and the footer register keeps CK_WIDTH bits (R91). -/
theorem ClassifyCases.state_foot {c : Config} {toSelf : Bool} {f g : FsRegs}
    (h : ClassifyCases c toSelf f g) (hfoot : c.ckTrunc f.foot = f.foot) :
    g.state ≠ .halted ∧ c.ckTrunc g.foot = g.foot := by
  cases h with
  | dropped | oversize | payload => exact ⟨nofun, hfoot⟩
  | footer => exact ⟨nofun, ckTrunc_zero c⟩

/-- In AWAIT_ADDR, RUN: no frame is in progress (R88). -/
theorem Inv.awaitAddr {s : State} {f : FsRegs} (h : Inv s) (hm : s.blk.mode = .run)
    (hf : f.state = .awaitAddr) (hfoot : s.cfg.ckTrunc f.foot = f.foot) :
    Inv { s with fs := f } := by
  refine h.withReceiver hm (by simp [hf]) hfoot (.of_no_frame ?_ ?_ ?_) <;> simp [hf]

/-- A header byte moves the receiver to another header state (R89, R90). -/
theorem Inv.header {s : State} {f : FsRegs} (h : Inv s) (hm : s.blk.mode = .run)
    (hf : f.state = .hdrType ∨ f.state = .hdrSizeLo ∨ f.state = .hdrSizeHi)
    (hfoot : f.foot = s.fs.foot) : Inv { s with fs := f } := by
  have hkept : s.cfg.ckTrunc f.foot = f.foot := hfoot.symm ▸ h.checksum.2
  rcases hf with hf | hf | hf <;>
    exact h.withReceiver hm (by simp [hf]) hkept
      (.of_no_frame (by simp [hf]) (by simp [hf]) (by simp [hf]))

/-- The service routine is the body of a message type, MT_ERROR's for an unknown one (R98, R107). -/
theorem service_eq_bodyOf (s : State) : ∃ i, opcodeOf i = none ∧ service s = bodyOf i s := by
  unfold service
  split
  · exact ⟨.mtPing, rfl, rfl⟩
  split
  · exact ⟨.mtSelftest, rfl, rfl⟩
  split
  · exact ⟨.mtReadvalue, rfl, rfl⟩
  split
  · exact ⟨.mtSetcoeff, rfl, rfl⟩
  split
  · exact ⟨.mtSetbatch, rfl, rfl⟩
  split
  · exact ⟨.mtSleep, rfl, rfl⟩
  · exact ⟨.mtError, rfl, rfl⟩

theorem Inv.verifyFrame {s t : State} (h : Inv s) (ht : verifyFrame s = .ok t) : Inv t := by
  obtain ⟨_, -, ht⟩ := body_bind ht
  split at ht
  · obtain ⟨i, hi, hserve⟩ := service_eq_bodyOf s
    exact h.service hi (hserve.symm.trans ht)
  · cases ht
    exact h

theorem Inv.reply {s t : State} {ty : Byte} {p : List Byte} (h : Inv s)
    (ht : reply ty p s = .ok t) : Inv t := by
  rw [reply_writes_events ht]
  exact h.congr ⟨rfl, rfl, rfl, rfl, rfl, rfl⟩ rfl rfl

theorem Inv.rxHeaderStart {b : Byte} {s : State} (h : Inv s) (hm : s.blk.mode = .run) :
    Inv (rxHeaderStart b s) := by
  unfold Machine.rxHeaderStart
  split
  · exact h
  · exact h.header hm (.inl rfl) rfl

theorem Inv.rxAddress {b : Byte} {s t : State} (h : Inv s) (hm : s.blk.mode = .run)
    (ht : rxAddress b s = .ok t) : Inv t := by
  unfold Machine.rxAddress at ht
  split at ht
  · split at ht
    · exact h.service (i := .diagPing) rfl ht
    split at ht
    · exact h.service (i := .diagSelftest) rfl ht
    split at ht
    · exact h.service (i := .diagValue) rfl ht
    · cases ht
      exact h.rxHeaderStart hm
  · cases ht
    exact h.rxHeaderStart hm
  · cases ht
    exact h.rxHeaderStart hm

/-- The end of a header keeps the invariant, whatever the header (R91). -/
theorem Inv.classify {s : State} (h : Inv s) (hm : s.blk.mode = .run) (f : FsRegs)
    (hfoot : f.foot = s.fs.foot) : Inv { s with fs := classify s.cfg (isSelf s f.addr) f } := by
  have hcases := classify_cases s.cfg (isSelf s f.addr) f
  obtain ⟨hstate, hkept⟩ := hcases.state_foot (hfoot.symm ▸ h.checksum.2)
  exact h.withReceiver hm hstate hkept hcases.frameInv

/-- Counting a payload byte keeps the count below the size, or begins the footer (R92). -/
theorem countPayload_frameInv {s : State} (haccepted : AcceptedFrame s)
    (hst : s.fs.state = .payload) (hcount : s.fs.count.toNat < s.fs.size.toNat) :
    FrameInv { s with fs := countPayload s.fs } := by
  unfold countPayload
  split
  · exact ⟨nofun, fun _ => ⟨haccepted, ckb_pos s.cfg⟩, nofun, nofun⟩
  · rename_i hmore
    have hlt : (s.fs.count + 1).toNat < s.fs.size.toNat := by bv_omega
    refine ⟨fun _ => ⟨haccepted, hlt⟩, ?_, ?_, ?_⟩ <;> simp [hst]

theorem countPayload_state {f : FsRegs} (h : f.state = .payload) :
    (countPayload f).state ≠ .halted := by
  unfold countPayload
  split <;> simp [h]

theorem ckTrunc_countPayload_foot {c : Config} {f : FsRegs} (h : c.ckTrunc f.foot = f.foot) :
    c.ckTrunc (countPayload f).foot = (countPayload f).foot := by
  unfold countPayload
  split
  · exact ckTrunc_zero c
  · exact h

theorem Inv.withPbuf {s : State} {m : List Host.Cell} (h : Inv s)
    (hm : Memory.wf s.cfg.maxPayload m = true) : Inv { s with pbuf := m } where
  config := h.config
  memory := hm
  checksum := h.checksum
  mode := h.mode.congr rfl rfl rfl rfl fun hb => (h.mode.boot hb).2.2.1
  frame := h.frame.congr rfl rfl rfl
  scheduler := h.scheduler.congr rfl rfl
  pid := h.pid

/-- Payload capture keeps PBUF canonical and the count below the size (R38, R92). -/
theorem Inv.rxPayload {b : Byte} {s t : State} (h : Inv s) (hm : s.blk.mode = .run)
    (hst : s.fs.state = .payload) (ht : rxPayload b s = .ok t) : Inv t := by
  obtain ⟨haccepted, hcount⟩ := h.frame.payload hst
  obtain ⟨u, hu, ht⟩ := body_bind ht
  obtain ⟨hlt, rfl⟩ := memWrite_cases hu
  cases ht
  have hwritten := h.withPbuf (Memory.wf_write (v := b) h.memory hlt)
  exact hwritten.withReceiver hm (countPayload_state hst) (ckTrunc_countPayload_foot h.checksum.2)
    (countPayload_frameInv (haccepted.congr rfl rfl rfl) hst hcount)

/-- A footer byte moves the footer count on, or ends the frame with its verify (R93). -/
theorem Inv.rxFooter {b : Byte} {s t : State} (h : Inv s) (hm : s.blk.mode = .run)
    (hst : s.fs.state = .footer) (ht : rxFooter b s = .ok t) : Inv t := by
  obtain ⟨haccepted, hcount⟩ := h.frame.footer hst
  have hckb := ckb_le s.cfg
  unfold Machine.rxFooter at ht
  simp only at ht
  split at ht
  · rename_i hlast
    have hawait : Inv { s with fs := countFooter s.cfg b s.fs } :=
      h.awaitAddr hm (if_pos hlast) (ckTrunc_footerWith ..)
    exact hawait.verifyFrame ht
  · rename_i hmore
    cases ht
    have hstate : (countFooter s.cfg b s.fs).state = .footer := (if_neg hmore).trans hst
    have hlt : (s.fs.count + 1).toNat < s.cfg.ckb := by bv_omega
    refine h.withReceiver hm (by simp [hstate]) (ckTrunc_footerWith ..)
      ⟨?_, fun _ => ⟨haccepted, hlt⟩, ?_, ?_⟩ <;> simp [hstate]

theorem Inv.drainEnd {s t : State} (h : Inv s) (ht : drainEnd s = .ok t) : Inv t := by
  unfold Machine.drainEnd at ht
  split at ht
  · cases ht
    exact h
  · split at ht
    · cases ht
      exact h
    · exact h.reply (pidOnly_ok ht).2

/-- A drained byte brings the drain nearer to its end, which is not passed (R94). -/
theorem Inv.rxDrain {s t : State} (h : Inv s) (hm : s.blk.mode = .run) (hst : s.fs.state = .drain)
    (ht : rxDrain s = .ok t) : Inv t := by
  obtain ⟨hpos, hle⟩ := h.frame.drain hst
  unfold Machine.rxDrain at ht
  split at ht
  · have hawait : Inv { s with fs := { s.fs with drainRem := 0, state := .awaitAddr } } :=
      h.awaitAddr hm rfl h.checksum.2
    exact hawait.drainEnd ht
  · rename_i hmore
    cases ht
    have hrem : 0 < (s.fs.drainRem - 1).toNat ∧
        (s.fs.drainRem - 1).toNat ≤ s.fs.size.toNat + s.cfg.ckb := by bv_omega
    refine h.withReceiver hm (by simp [hst]) h.checksum.2
      ⟨?_, ?_, fun _ => hrem, fun _ => h.frame.oversize hst⟩ <;> simp [hst]

/-- A received byte keeps the invariant, whatever the receiver waits for (R88 to R94). -/
theorem Inv.rxByte {b : Byte} {s t : State} (h : Inv s) (hm : s.blk.mode = .run)
    (ht : rxByte b s = .ok t) : Inv t := by
  unfold Machine.rxByte at ht
  split at ht
  case h_1 => cases ht; exact h
  case h_2 => exact h.rxAddress hm ht
  case h_3 => cases ht; exact h.header hm (.inr (.inl rfl)) rfl
  case h_4 => cases ht; exact h.header hm (.inr (.inr rfl)) rfl
  case h_5 =>
    cases ht
    exact h.classify hm { s.fs with size := s.fs.size ||| (b.setWidth 16 <<< 8) } rfl
  case h_6 hst => exact h.rxPayload hm hst ht
  case h_7 hst => exact h.rxFooter hm hst ht
  case h_8 hst => exact h.rxDrain hm hst ht
  case h_9 => cases ht; exact h

/-- Before boot and in HALTED a received byte is lost (R88, R27). -/
theorem rxByte_lost {b : Byte} {s : State} (h : s.fs.state = .stopped ∨ s.fs.state = .halted) :
    rxByte b s = .ok s := by
  rcases h with h | h <;> simp [rxByte, h]

theorem Inv.startReceiver {s : State} (h : Inv s) (hm : s.blk.mode = .run) :
    Inv (startReceiver s) := by
  unfold Machine.startReceiver
  split
  · exact h.awaitAddr hm rfl h.checksum.2
  · exact h

/-- An expired timeout keeps the invariant in RUN and in BOOT, where none is armed (R95). -/
theorem Inv.readTimeout {s : State} (h : Inv s) (hm : s.blk.mode ≠ .halted) :
    Inv (readTimeout s) := by
  unfold Machine.readTimeout
  split
  · rename_i harmed
    have hrun : s.blk.mode = .run := by
      cases hmode : s.blk.mode with
      | boot => rw [(h.mode.boot hmode).2.1] at harmed; cases harmed
      | run => rfl
      | halted => exact absurd hmode hm
    have hawait : Inv { s with fs := { s.fs with state := .awaitAddr } } :=
      h.awaitAddr hrun rfl h.checksum.2
    exact hawait.congr ⟨rfl, rfl, rfl, rfl, rfl, rfl⟩ rfl rfl
  · exact h

/-! ### Boot (R84) -/

/-- BLK.BOOT reads an identity of the configuration and enters RUN, or finds none and halts (R84). -/
theorem Inv.bootIdentity {s : State} (strap : BitVec 4) (h : Inv s) (hm : s.blk.mode = .boot) :
    Inv (bootIdentity strap s) := by
  obtain ⟨-, hstopped, -, hfault⟩ := h.mode.boot hm
  have hframe (t : State) (hst : t.fs.state = .stopped ∨ t.fs.state = .halted) : FrameInv t := by
    rcases hst with hst | hst <;> apply FrameInv.of_no_frame <;> simp [hst]
  unfold Machine.bootIdentity
  split
  · rename_i id hid
    exact
      { config := h.config
        memory := h.memory
        checksum := h.checksum
        mode :=
          { boot := nofun
            run := fun _ =>
              ⟨⟨id, identityOf_mem h.config hid, rfl⟩, by simp [hstopped], hfault⟩
            halted := nofun
            record := h.mode.record }
        frame := hframe _ (.inl hstopped)
        scheduler := h.scheduler.congr rfl rfl
        pid := h.pid }
  · exact
      { config := h.config
        memory := h.memory
        checksum := h.checksum
        mode :=
          { boot := nofun
            run := nofun
            halted := fun _ => ⟨rfl, .inr rfl⟩
            record := h.mode.record }
        frame := hframe _ (.inr rfl)
        scheduler := h.scheduler.congr rfl rfl
        pid := h.pid }

/-! ### Every body, by mode -/

/-- In RUN every body keeps the invariant. -/
theorem Inv.bodyOf_run {i : Instr} {s t : State} (h : Inv s) (hm : s.blk.mode = .run)
    (hbody : bodyOf i s = .ok t) : Inv t := by
  by_cases hi : opcodeOf i = none
  · exact h.service hi hbody
  have hidle : s.blk.mode ≠ .boot := by simp [hm]
  cases i <;> simp only [opcodeOf, not_true_eq_false] at hi
  case blkBoot strap =>
    simp only [bodyOf, bootOnce, hm] at hbody
    cases hbody
  case ckReset => cases hbody; exact h.withAcc (ok_ckInit h.config)
  case ckUpdate b => cases hbody; exact h.withAcc (ckTrunc_crcStep ..)
  case ckUpdateMany bs => cases hbody; exact h.withAcc (ckTrunc_crcMany h.checksum.1 bs)
  case fsStart => cases hbody; exact h.startReceiver hm
  case fsRxbyte b => exact h.rxByte hm hbody
  case fsTimeout => cases hbody; exact h.readTimeout (by simp [hm])
  case schTimer =>
    cases hbody
    have hsch : SchedulerInv { s with sch := { s.sch with tickPending := true } } :=
      ⟨h.scheduler.depth, h.scheduler.queued, h.scheduler.next, h.scheduler.current,
        h.scheduler.drive⟩
    exact h.of_keepsReceiver ⟨rfl, rfl, rfl, rfl, rfl, rfl⟩ (absurd · hidle) hsch h.pid
  case schTick p => exact h.pendingTick hbody
  case schEnqueue b =>
    cases hbody
    exact h.of_keepsReceiver ⟨rfl, rfl, rfl, rfl, rfl, rfl⟩ (absurd · hidle)
      ((h.scheduler.enqueue b).congr rfl rfl) h.pid
  case schStop =>
    cases hbody
    exact h.of_keepsReceiver ⟨rfl, rfl, rfl, rfl, rfl, rfl⟩ (absurd · hidle)
      (h.scheduler.stop h.config) h.pid
  case pidSetcoef kp ki kd =>
    obtain ⟨p, hp, hq⟩ := setCoefficients_cases kp ki kd s
    cases hbody
    have hinteg : p.integ = s.pid.integ := by rw [hq]
    rw [hp]
    exact h.congr ⟨rfl, rfl, rfl, rfl, rfl, rfl⟩ rfl hinteg
  case pidUpdate pos | rndCompute raw =>
    cases hbody
    exact h.of_keepsReceiver ⟨rfl, rfl, rfl, rfl, rfl, rfl⟩ (absurd · hidle)
      (h.scheduler.congr rfl rfl) (guardedDrive_inDriveRange h.config _)
  all_goals
    cases hbody
    exact h.congr ⟨rfl, rfl, rfl, rfl, rfl, rfl⟩ rfl rfl

/-- Before boot an operation does nothing, raises a fault, or is one of BLK.BOOT, the checksum operations
and the receive operations, whose bodies run (R140). -/
theorem exec_next_boot {i : Instr} {s t : State} (hm : s.blk.mode = .boot) (h : exec i s = .next t) :
    t = s ∨ (∃ info, t = s.raise info) ∨
      (bodyOf i s = .ok t ∧ ∃ op k, opcodeOf i = some op ∧ opClass op = some k ∧
        (k = .boot ∨ k = .checksum ∨ k = .receive)) := by
  rw [exec_eq] at h
  cases hop : opcodeOf i with
  | none =>
    rw [hop] at h
    obtain ⟨-, ⟨-, rfl⟩ | ⟨hrun, -⟩⟩ := wireGate_next h
    · exact .inl rfl
    · exact nomatch hm.symm.trans hrun
  | some op =>
    rw [hop] at h
    obtain ⟨-, -, h⟩ := configGate_next h
    obtain ⟨k, hk⟩ := Option.ne_none_iff_exists'.mp (opcodeOf_mapped hop)
    by_cases hruns : k = .boot ∨ k = .checksum ∨ k = .receive
    · rw [modeGate_boot hm hk hruns] at h
      obtain hbody | ⟨info, -, rfl⟩ := commit_next h
      · exact .inr (.inr ⟨hbody, op, k, rfl, hk, hruns⟩)
      · exact .inr (.inl ⟨info, rfl⟩)
    · cases k <;> simp only [reduceCtorEq, or_true, or_false, not_true_eq_false] at hruns
      case external | internal =>
        simp only [modeGate, hm, hk] at h
        cases h
        exact .inr (.inl ⟨_, rfl⟩)
      case agent =>
        simp only [modeGate, hm, hk] at h
        cases h
        exact .inl rfl

/-- The bodies that run before boot keep the invariant (R77 to R80, R84, R88, R95, R140). -/
theorem Inv.bodyOf_boot {i : Instr} {s t : State} {op : Byte} {k : OpClass} (h : Inv s)
    (hm : s.blk.mode = .boot) (hop : opcodeOf i = some op) (hk : opClass op = some k)
    (hruns : k = .boot ∨ k = .checksum ∨ k = .receive) (hbody : bodyOf i s = .ok t) : Inv t := by
  cases i <;> cases hop
  case blkBoot strap =>
    simp only [bodyOf, bootOnce, hm] at hbody
    cases hbody
    exact h.bootIdentity strap hm
  case ckReset => cases hbody; exact h.withAcc (ok_ckInit h.config)
  case ckUpdate b => cases hbody; exact h.withAcc (ckTrunc_crcStep ..)
  case ckUpdateMany bs => cases hbody; exact h.withAcc (ckTrunc_crcMany h.checksum.1 bs)
  case ckValue => cases hbody; exact h.congr ⟨rfl, rfl, rfl, rfl, rfl, rfl⟩ rfl rfl
  case fsRxbyte b =>
    obtain rfl : s = t := by
      rw [bodyOf, rxByte_lost (.inl (h.mode.boot hm).2.1)] at hbody
      exact Except.ok.inj hbody
    exact h
  case fsTimeout => cases hbody; exact h.readTimeout (by simp [hm])
  all_goals
    cases hk
    simp at hruns

/-- Every operation keeps the invariant. -/
theorem Inv.exec {i : Instr} {s t : State} (h : Inv s) (ht : exec i s = .next t) : Inv t := by
  cases hm : s.blk.mode with
  | boot =>
    obtain rfl | ⟨info, rfl⟩ | ⟨hbody, op, k, hop, hk, hruns⟩ := exec_next_boot hm ht
    · exact h
    · exact h.raise info
    · exact h.bodyOf_boot hm hop hk hruns hbody
  | run =>
    obtain hbody | rfl | ⟨info, rfl⟩ := exec_next_body ht
    · exact h.bodyOf_run hm hbody
    · exact h
    · exact h.raise info
  | halted => exact absurd hm (exec_next ht).2.1

/-! ### Every step keeps the invariant -/

/-- A command that is no instruction raises a fault at most. -/
theorem Inv.portGate_rejected {op : Byte} {s t : State} {body : Body State} (h : Inv s)
    (hbody : ∀ u, body = .ok u → u = s) (ht : portGate op s body = .next t) : Inv t := by
  obtain ⟨-, -, -, hok | ⟨info, -, rfl⟩ | ⟨rfl, -⟩ | ⟨rfl, -⟩ | ⟨rfl, -⟩⟩ := portGate_next ht
  · exact hbody t hok ▸ h
  · exact h.raise info
  · exact h.raise _
  · exact h.raise _
  · exact h

/-- Settles O15, by what the step finds on the port. -/
theorem stepKeepsInvariant : Obligations.StepKeepsInvariant := by
  intro s t h ht
  cases hp : s.port with
  | nil => exact execIdle_next ((step_idle hp).symm.trans ht) ▸ h
  | cons c rest =>
    have hrest : Inv (s.withPort rest) := h.withPort rest
    cases hd : decodePort c with
    | ok i => exact hrest.exec ((step_instr hp hd).symm.trans ht)
    | error e =>
      cases e with
      | illegalOpcode op =>
        refine hrest.portGate_rejected ?_ ((step_illegal hp hd).symm.trans ht)
        rintro _ ⟨⟩
        rfl
      | missingOperands op =>
        refine hrest.portGate_rejected ?_ ((step_missingOperands hp hd).symm.trans ht)
        rintro _ ⟨⟩

end Sys2Proof.Machine

namespace Sys2Proof.Machine

/-! ### Bodies that answer (R39, R92, R99, R120; log 14)

In a state of the invariant every read stays within the frame and PBUF, every reply has an identity, and the
play position is in the current batch: so no body of a port operation meets a fault of the model's own. -/

/-- Only a booted board has a receiver that runs, and it knows its identity (R84, R88). -/
theorem Inv.identity_known {s : State} (h : Inv s) (hstopped : s.fs.state ≠ .stopped)
    (hhalted : s.fs.state ≠ .halted) : ∃ id, s.self = .known id := by
  cases hm : s.blk.mode with
  | boot => exact absurd (h.mode.boot hm).2.1 hstopped
  | run =>
    obtain ⟨id, -, hid⟩ := (h.mode.run hm).1
    exact ⟨id, hid⟩
  | halted => exact absurd (h.mode.halted hm).1 hhalted

/-- Setpoints within the frame can be read (R61). -/
theorem readSetpoints_ok {s : State} (hfit : s.fs.size.toNat ≤ s.cfg.maxPayload) {a n : Nat}
    (h : a + 4 * n ≤ s.fs.size.toNat) : ∃ sp, readSetpoints s a n = .ok sp := by
  induction n generalizing a with
  | zero => exact ⟨[], rfl⟩
  | succ n ih =>
    obtain ⟨rest, hrest⟩ := ih (a := a + 4) (by omega)
    simp only [readSetpoints, memRead16_ok (s := s) (a := a) (by omega) (by omega),
      memRead16_ok (s := s) (a := a + 2) (by omega) (by omega), hrest, body_ok_bind]
    exact ⟨_, rfl⟩

/-- A batch within the frame can be read (R61, R105). -/
theorem readBatch_ok {s : State} (hfit : s.fs.size.toNat ≤ s.cfg.maxPayload) {n : Nat}
    (h : 6 + 4 * n ≤ s.fs.size.toNat) : ∃ b, readBatch s n = .ok b := by
  obtain ⟨sp, hsp⟩ := readSetpoints_ok hfit h
  simp only [readBatch, memRead16_ok (s := s) (a := 0) (by omega) (by omega),
    memRead16_ok (s := s) (a := 2) (by omega) (by omega), hsp, body_ok_bind]
  exact ⟨_, rfl⟩

/-- A board with an identity answers set-coefficients, whatever the size (R104). -/
theorem serveSetcoeff_ok {s : State} {id : Identity} (hid : s.self = .known id)
    (hfit : s.fs.size.toNat ≤ s.cfg.maxPayload) : ∃ t, serveSetcoeff s = .ok t := by
  unfold serveSetcoeff
  split
  · exact ⟨_, replyError_known _ hid⟩
  · rename_i hsize
    have h12 : s.fs.size.toNat = 12 := congrArg BitVec.toNat (not_not.mp hsize)
    simp only [memRead32_ok (s := s) (a := 0) (by omega) (by omega),
      memRead32_ok (s := s) (a := 4) (by omega) (by omega),
      memRead32_ok (s := s) (a := 8) (by omega) (by omega), body_ok_bind]
    have hid' (kp ki kd : F32) : (setCoefficients kp ki kd s).1.self = .known id :=
      (ServiceFrame.coefficients kp ki kd s).self.trans hid
    unfold replyToSetcoeff
    split
    · exact ⟨_, replyError_known _ (hid' ..)⟩
    · exact ⟨_, reply_known _ _ (hid' ..)⟩

/-- A board with an identity answers set-setpoint-batch, whatever the shape of the payload (R105). -/
theorem offerPayload_ok {s : State} {id : Identity} (hid : s.self = .known id)
    (hfit : s.fs.size.toNat ≤ s.cfg.maxPayload) : ∃ t, offerPayload s = .ok t := by
  unfold offerPayload
  split
  · exact ⟨_, replyError_known _ hid⟩
  · simp only [memRead16_ok (s := s) (a := 4) (by omega) (by omega), body_ok_bind]
    split
    · exact ⟨_, replyError_known _ hid⟩
    · obtain ⟨b, hb⟩ := readBatch_ok hfit
        (n := (BitVec.ofNat 16 (leValue (Memory.bytes s.pbuf 4 2))).toNat) (by omega)
      simp only [hb, body_ok_bind]
      have hid' : (enqueue b s).self = .known id := hid
      unfold replyToSetbatch
      split
      · exact ⟨_, replyError_known _ hid'⟩
      · exact ⟨_, reply_known _ _ hid'⟩

/-- The service routine of a board with an identity answers every frame that fits PBUF (R98). -/
theorem service_ok {s : State} {id : Identity} (hpid : s.cfg.strategy = .pid)
    (hid : s.self = .known id) (hfit : s.fs.size.toNat ≤ s.cfg.maxPayload) :
    ∃ t, service s = .ok t := by
  have answers {x : Body State} (hx : ∃ t, x = .ok t) : ∃ t, pidOnly s x = .ok t :=
    hx.imp fun t ht => (pidOnly_pid hpid).trans ht
  unfold service
  split
  · exact answers ⟨_, reply_known _ _ hid⟩
  split
  · exact answers ⟨_, reply_known _ _ (s := enqueue s.cfg.selftestBatch s) hid⟩
  split
  · exact answers ⟨_, reply_known _ _ (s := s.countDraw) hid⟩
  split
  · exact serveSetcoeff_ok hid hfit
  split
  · exact answers (offerPayload_ok hid hfit)
  split
  · exact answers ⟨_, reply_known _ _ (s := stopMotion s) hid⟩
  · exact answers ⟨_, replyError_known _ hid⟩

/-- The verify of a frame that fits PBUF completes (R93). -/
theorem verifyFrame_ok {s : State} {id : Identity} (hpid : s.cfg.strategy = .pid)
    (hid : s.self = .known id) (hfit : s.fs.size.toNat ≤ s.cfg.maxPayload) :
    ∃ t, verifyFrame s = .ok t := by
  simp only [verifyFrame, framePayload_ok hfit, body_ok_bind]
  split
  · exact service_ok hpid hid hfit
  · exact ⟨s, rfl⟩

theorem drainEnd_ok {s : State} {id : Identity} (hpid : s.cfg.strategy = .pid)
    (hid : s.self = .known id) : ∃ t, drainEnd s = .ok t := by
  unfold drainEnd
  split
  · exact ⟨s, rfl⟩
  · split
    · exact ⟨s, rfl⟩
    · exact ⟨_, (pidOnly_pid hpid).trans (replyError_known _ hid)⟩

/-- A byte in AWAIT_ADDR needs no identity: a board without one has no diagnostic codes of its own (R89). -/
theorem rxAddress_ok {s : State} (b : Byte) (hpid : s.cfg.strategy = .pid) :
    ∃ t, rxAddress b s = .ok t := by
  unfold rxAddress
  split
  · split
    · exact ⟨_, pidOnly_pid hpid⟩
    split
    · exact ⟨_, pidOnly_pid hpid⟩
    split
    · exact ⟨_, pidOnly_pid hpid⟩
    · exact ⟨_, rfl⟩
  · exact ⟨_, rfl⟩
  · exact ⟨_, rfl⟩

/-- A received byte is taken, whatever the receiver waits for (R88 to R94). -/
theorem rxByte_ok {s : State} (b : Byte) (h : Inv s) (hpid : s.cfg.strategy = .pid) :
    ∃ t, rxByte b s = .ok t := by
  unfold rxByte
  split
  case h_2 => exact rxAddress_ok b hpid
  case h_6 hst =>
    obtain ⟨⟨-, -, hfit⟩, hcount⟩ := h.frame.payload hst
    simp only [rxPayload, memWrite, if_pos (hcount.trans_le hfit), body_ok_bind]
    exact ⟨_, rfl⟩
  case h_7 hst =>
    obtain ⟨⟨-, -, hfit⟩, -⟩ := h.frame.footer hst
    obtain ⟨id, hid⟩ := h.identity_known (by simp [hst]) (by simp [hst])
    simp only [rxFooter]
    split
    · exact verifyFrame_ok (s := { s with fs := countFooter s.cfg b s.fs }) hpid hid hfit
    · exact ⟨_, rfl⟩
  case h_8 hst =>
    obtain ⟨id, hid⟩ := h.identity_known (by simp [hst]) (by simp [hst])
    unfold rxDrain
    split
    · exact drainEnd_ok (s := { s with fs := { s.fs with drainRem := 0, state := .awaitAddr } })
        hpid hid
    · exact ⟨_, rfl⟩
  all_goals exact ⟨_, rfl⟩

/-- Steps 5 to 8 complete while the play position is in the current batch (R116 to R120). -/
theorem tickPlay_ok {s : State} (hc : s.cfg.ok = true) (h : SchedulerInv s) :
    ∃ t, tickPlay s = .ok t := by
  cases hcur : s.sch.cur with
  | none => exact ⟨_, tickPlay_idle hcur⟩
  | some b =>
    by_cases hl : s.sch.loops = 0
    · exact ⟨_, tickPlay_exhausted hcur hl⟩
    · obtain ⟨hcount, -, x, hx, -⟩ := h.current b hcur
      obtain ⟨hidx, -⟩ := List.getElem?_eq_some_iff.mp hx
      obtain ⟨-, -, -, hsch⟩ := tickRender_inRange (s := s) hc
      have hposition : (tickRender s).sch.idx.toNat < b.count := by
        rw [hsch]
        exact hidx
      obtain ⟨r, hr⟩ := tickAdvance_ok (c := (tickRender s).cfg) hposition
        (hcount.trans_lt (ok_maxSp hc).2)
      exact ⟨_, tickPlay_renders hcur hl hr⟩

/-- An offer of SCH.TICK completes (R111; log 7). -/
theorem pendingTick_ok {s : State} (p : F32) (h : Inv s) : ∃ t, pendingTick p s = .ok t := by
  unfold pendingTick
  split
  · obtain ⟨r, hr⟩ := tickActivate_total (tickFetch s.sch)
    have hu := tickPrepare_ok (p := p) (tickActivate_cases hr)
    simp only [tick, hu, body_ok_bind]
    exact tickPlay_ok h.config (tickPrepare_schedulerInv h.scheduler hu)
  · exact ⟨s, rfl⟩

/-- A body that answers a state or raises a fault of the block: no fault of the model's own and no refusal. -/
def Completes (body : Body State) : Prop :=
  (∃ t, body = .ok t) ∨ ∃ info, body = .error (.raise info)

theorem Completes.commit {s : State} {body : Body State} (h : Completes body) :
    ∃ t, commit s body = .next t := by
  obtain ⟨t, rfl⟩ | ⟨info, rfl⟩ := h
  · exact ⟨t, rfl⟩
  · exact ⟨_, rfl⟩

/-- BLK.BOOT reads the identity or raises Refused (R84, R162). -/
theorem bootOnce_completes (strap : BitVec 4) (s : State) : Completes (bootOnce strap s) := by
  unfold bootOnce
  split
  · exact .inl ⟨_, rfl⟩
  · exact .inr ⟨_, rfl⟩
  · exact .inr ⟨_, rfl⟩

/-- The body of every port operation completes in a state of the invariant. -/
theorem Inv.bodyOf_completes {i : Instr} {s : State} (h : Inv s) (hpid : s.cfg.strategy = .pid)
    (hport : opcodeOf i ≠ none) : Completes (bodyOf i s) := by
  cases i <;> simp only [opcodeOf, ne_eq, reduceCtorEq, not_false_eq_true, not_true_eq_false] at hport
  case blkBoot strap => exact bootOnce_completes strap s
  case fsRxbyte b => exact .inl (rxByte_ok b h hpid)
  case schTick p => exact .inl (pendingTick_ok p h)
  all_goals exact .inl ⟨_, rfl⟩

/-- The gates of a port operation lead to a next state unless the block is halted: they run the body, let the
offer lapse, or raise a fault (R140, R143, R144). -/
theorem portGate_completes {op : Byte} {s : State} {body : Body State} (h : s.notHalted)
    (hbody : Completes body) : ∃ t, portGate op s body = .next t := by
  have hraise (info : FaultInfo) : ∃ t, commit s (.error (.raise info)) = .next t := ⟨_, rfl⟩
  rw [portGate_defined h.1]
  unfold modeGate
  split
  · exact absurd ‹s.blk.mode = .halted› h.2
  · split
    case h_4 => exact ⟨s, rfl⟩
    case h_5 | h_6 | h_7 => exact hraise _
    all_goals exact hbody.commit
  · split
    case h_1 =>
      split
      · exact hbody.commit
      · exact hraise _
    case h_2 => exact hraise _
    all_goals exact hbody.commit

/-- Settles O16, by what the step finds on the port: nothing, an instruction, or an opcode outside the map. -/
theorem invariantStepCompletes : Obligations.InvariantStepCompletes := by
  intro s h hpid hm hoperands
  cases hp : s.port with
  | nil =>
    rw [step_idle hp]
    unfold execIdle
    rw [configGate_kept h.config (keeps_of_pid hpid _)]
    split
    · exact absurd ‹s.blk.mode = .halted› hm
    · exact ⟨s, rfl⟩
    · exact ⟨s, rfl⟩
  | cons c rest =>
    have hrest : Inv (s.withPort rest) := h.withPort rest
    have hruns : (s.withPort rest).notHalted := ⟨⟨h.config, hpid⟩, hm⟩
    cases hd : decodePort c with
    | ok i =>
      have hop := decodePort_opcode hd
      rw [step_instr hp hd, exec_eq, hop]
      exact portGate_completes hruns (hrest.bodyOf_completes hpid (by simp [hop]))
    | error e =>
      cases e with
      | illegalOpcode op =>
        rw [step_illegal hp hd]
        exact portGate_completes hruns (.inl ⟨_, rfl⟩)
      | missingOperands op => exact absurd hd (hoperands c rest op hp)

end Sys2Proof.Machine

namespace Sys2Proof.Machine

/-! ### Operand words there and back (R69) -/

theorem bytesOfWord_wordOfBytes (b0 b1 b2 b3 : Byte) :
    bytesOfWord (wordOfBytes b0 b1 b2 b3) = [b0, b1, b2, b3] := by
  simp only [bytesOfWord, wordOfBytes, List.cons.injEq, and_true]
  refine ⟨?_, ?_, ?_, ?_⟩ <;> ext j hj <;> simp <;> grind

/-- The unused bytes of the last word stand after the sequence. -/
theorem take_bytes_packBytes (bs : List Byte) :
    ((packBytes bs).flatMap bytesOfWord).take bs.length = bs := by
  induction bs using packBytes.induct with
  | case1 => rfl
  | case2 b0 => simp [packBytes, bytesOfWord_wordOfBytes]
  | case3 b0 b1 => simp [packBytes, bytesOfWord_wordOfBytes]
  | case4 b0 b1 b2 => simp [packBytes, bytesOfWord_wordOfBytes]
  | case5 b0 b1 b2 b3 bs ih => simp [packBytes, bytesOfWord_wordOfBytes, ih]

/-- The length word carries the length, and the words after it are as many as the length asks for. -/
theorem decodeByteSeq_encodeByteSeq {bs : List Byte} (h : ByteSeq.fits bs = true) :
    decodeByteSeq (encodeByteSeq bs) = some bs := by
  have hlen : (BitVec.ofNat 32 bs.length).toNat = bs.length :=
    (BitVec.toNat_ofNat _ _).trans (Nat.mod_eq_of_lt (of_decide_eq_true h))
  have hwords : (packBytes bs).take (wordsForBytes bs.length) = packBytes bs := by
    rw [← packBytes_length, List.take_length]
  simp only [decodeByteSeq, encodeByteSeq, hlen, packBytes_length, le_refl, if_true, hwords,
    take_bytes_packBytes]

theorem decodeSetpoint_wordOfHalves (x : Setpoint) :
    decodeSetpoint (wordOfHalves x.target x.duration) = x := by
  simp [decodeSetpoint]

theorem decodeBatch_encodeBatch {b : Batch} (h : b.fits = true) :
    decodeBatch (encodeBatch b) = some b := by
  have hcount : (BitVec.ofNat 16 b.sp.length).toNat = b.sp.length :=
    (BitVec.toNat_ofNat _ _).trans (Nat.mod_eq_of_lt (of_decide_eq_true h))
  simp [decodeBatch, encodeBatch, Batch.count, hcount, Function.comp_def, decodeSetpoint_wordOfHalves]

/-! ### What the operand decoders read fits its count field (R69) -/

theorem decodeByteSeq_fits {dat : List U32} {bs : List Byte} (h : decodeByteSeq dat = some bs) :
    ByteSeq.fits bs = true := by
  cases dat with
  | nil => cases h
  | cons n ws =>
    obtain ⟨-, hbs⟩ := Option.ite_none_right_eq_some.mp h
    obtain rfl := Option.some.inj hbs
    exact decide_eq_true ((List.length_take_le _ _).trans_lt n.isLt)

theorem decodeBatch_fits {dat : List U32} {b : Batch} (h : decodeBatch dat = some b) :
    b.fits = true := by
  match dat with
  | [] | [_] => cases h
  | d0 :: d1 :: ws =>
    obtain ⟨-, hb⟩ := Option.ite_none_right_eq_some.mp h
    obtain rfl := Option.some.inj hb
    exact decide_eq_true (by
      simp only [Batch.count, List.length_map]
      exact (List.length_take_le _ _).trans_lt (lowHalf d1).isLt)

/-! ### The port decoder and the encoder (R68, R70) -/

/-- The strap is read from the low four bits of `imm8`, where the encoder writes it (R69). -/
theorem strap_of_imm8 (strap : BitVec 4) : (strap.setWidth 8).extractLsb' 0 4 = strap := by
  ext j hj
  simp [show j < 8 by omega, BitVec.getLsbD_eq_getElem hj]

theorem readOperand_eq_ok {α : Type} {op : Byte} {f : Option α} {k : α → Instr} {i : Instr} :
    readOperand op f k = .ok i ↔ ∃ x, f = some x ∧ k x = i := by
  cases f <;> simp [readOperand]

/-- What the encoder presents on the port decodes to the operation it stands for. -/
theorem decodePort_encode {cfg : Config} {id : Identity} {i : Instr} {c : Command}
    (hwf : i.WellFormed = true) (h : encode cfg id i = .port c) : decodePort c = .ok i := by
  cases i <;> cases h
  case blkBoot strap => simp [decodePort, strap_of_imm8]
  case ckUpdateMany bs => simp [decodePort, decodeByteSeq_encodeByteSeq hwf, readOperand_eq_ok]
  case schEnqueue b => simp [decodePort, decodeBatch_encodeBatch hwf, readOperand_eq_ok]
  case pidSetcoef kp ki kd => simp [decodePort, threeOperands]
  all_goals simp [decodePort, oneOperand]

/-- A byte sequence the port decoder accepts is the one its operand words hold. -/
theorem decodePort_ckUpdateMany {c : Command} {bs : List Byte}
    (h : decodePort c = .ok (.ckUpdateMany bs)) : decodeByteSeq c.dat = some bs := by
  have hop : cmdOpcode c.cmd = 0x12 := (Option.some.inj (decodePort_opcode h)).symm
  simpa [decodePort, hop, readOperand_eq_ok] using h

/-- A batch the port decoder accepts is the one its operand words hold. -/
theorem decodePort_schEnqueue {c : Command} {b : Batch}
    (h : decodePort c = .ok (.schEnqueue b)) : decodeBatch c.dat = some b := by
  have hop : cmdOpcode c.cmd = 0x32 := (Option.some.inj (decodePort_opcode h)).symm
  simpa [decodePort, hop, readOperand_eq_ok] using h

theorem decodePort_wellFormed {c : Command} {i : Instr} (h : decodePort c = .ok i) :
    i.WellFormed = true := by
  cases i
  case ckUpdateMany bs => exact decodeByteSeq_fits (decodePort_ckUpdateMany h)
  case schEnqueue b => exact decodeBatch_fits (decodePort_schEnqueue h)
  all_goals rfl

/-! ### Message types and diagnostic codes (R59, R65) -/

theorem ok_typeCodes_nodup {c : Config} (h : c.ok = true) : c.typeCodes.Nodup := by
  simp only [Config.ok, Config.typesDistinct, Bool.and_eq_true, decide_eq_true_eq] at h
  tauto

theorem ok_diagCodes_nodup {c : Config} (h : c.ok = true) : c.diagCodes.Nodup := by
  simp only [Config.ok, Config.codesDistinct, Bool.and_eq_true, decide_eq_true_eq] at h
  obtain ⟨⟨⟨⟨hcodes, -⟩, -⟩, -⟩, -⟩ := h
  exact (List.nodup_append.mp (List.nodup_cons.mp hcodes).2).2.1

/-- The three diagnostic codes of one identity are distinct (R10). -/
theorem ok_diagCodes_nodup_of_mem {c : Config} {id : Identity} (h : c.ok = true)
    (hid : id ∈ c.identities) : [id.diagPing, id.diagSelftest, id.diagValue].Nodup :=
  (List.nodup_flatMap.mp (ok_diagCodes_nodup h)).1 id hid

/-- Distinct type codes: no test of the table before the instruction's own one takes its code. -/
theorem decodeType_encode {cfg : Config} {id : Identity} {i : Instr} {b : Byte}
    (hcodes : cfg.typeCodes.Nodup) (h : encode cfg id i = .wireType b) :
    decodeType cfg b = some i := by
  have hlater := hcodes.imp Ne.symm
  simp only [Config.typeCodes, List.pairwise_cons, List.forall_mem_cons] at hlater
  cases i <;> cases h
  all_goals simp [decodeType, hlater]

/-- Distinct diagnostic codes: no test before the instruction's own one takes its code. -/
theorem decodeDiag_encode {cfg : Config} {id : Identity} {i : Instr} {b : Byte}
    (hcodes : [id.diagPing, id.diagSelftest, id.diagValue].Nodup)
    (h : encode cfg id i = .diagByte b) : decodeDiag id b = some i := by
  have hlater := hcodes.imp Ne.symm
  simp only [List.pairwise_cons, List.forall_mem_cons] at hlater
  cases i <;> cases h
  all_goals simp [decodeDiag, hlater]

/-! ### The statements -/

/-- Settles O5, by what carries the instruction. -/
theorem decodeOfEncode : Obligations.DecodeOfEncode := by
  intro cfg id i hok hid hwf
  cases hcode : encode cfg id i with
  | port c => exact congrArg ofPort (decodePort_encode hwf hcode)
  | wireType b =>
    exact congrArg (orReject · (.unknownType b)) (decodeType_encode (ok_typeCodes_nodup hok) hcode)
  | diagByte b =>
    exact congrArg (orReject · (.notDiagnostic b))
      (decodeDiag_encode (ok_diagCodes_nodup_of_mem hok hid) hcode)

/-- Settles O6: what is read fits, so encoding it again leads back to it under the same opcode. -/
theorem decodedCommandWellFormed : Obligations.DecodedCommandWellFormed := by
  intro cfg id c i h
  have hwf := decodePort_wellFormed h
  obtain ⟨c', hcode, hop⟩ := encode_opcode (decodePort_opcode h) cfg id
  exact ⟨hwf, c', hcode, hop, decodePort_encode hwf hcode⟩

/-- Settles O3, by what the port presents. -/
theorem stepRunsPresentedCommand : Obligations.StepRunsPresentedCommand :=
  ⟨fun _ _ _ _ => step_instr, fun _ _ _ _ => step_illegal, fun _ _ _ _ => step_missingOperands,
    fun _ => step_idle⟩

/-- Settles O4, by running the decoder on each of the words. -/
theorem specWordsDecode : Obligations.SpecWordsDecode := by
  unfold Obligations.SpecWordsDecode
  decide

end Sys2Proof.Machine

namespace Sys2Proof.Machine

/-! ### The values of the checksum register (R24, log 15) -/

/-- The values the checksum register can hold: CK_WIDTH bits, zero-extended (R24, log 15). -/
def ckValues (c : Config) : Set U32 := {v | c.ckTrunc v = v}

theorem mem_ckValues {c : Config} {v : U32} : v ∈ ckValues c ↔ c.ckTrunc v = v := Iff.rfl

theorem eight_le_ckBits (c : Config) : 8 ≤ c.ckBits := by
  unfold Config.ckBits
  split <;> decide

theorem ckBits_le (c : Config) : c.ckBits ≤ 32 := by
  unfold Config.ckBits
  split <;> decide

/-- With CK_WIDTH = 16 the upper half is cut off. -/
theorem ckTrunc_w16 {c : Config} (hwidth : c.ckWidth = .w16) (v : U32) :
    c.ckTrunc v = (v.setWidth 16).setWidth 32 := by
  refine BitVec.eq_of_toNat_eq ?_
  have hlt : v.toNat % 2 ^ 16 < 2 ^ 32 := by omega
  simp only [Config.ckTrunc, hwidth, BitVec.toNat_and, BitVec.toNat_setWidth, Nat.mod_eq_of_lt hlt]
  exact Nat.and_two_pow_sub_one_eq_mod v.toNat 16

theorem getLsbD_ckTrunc (c : Config) (v : U32) (i : Nat) :
    (c.ckTrunc v).getLsbD i = (decide (i < c.ckBits) && v.getLsbD i) := by
  cases hwidth : c.ckWidth with
  | w16 =>
    have hin : (decide (i < 32) && decide (i < 16)) = decide (i < 16) := by grind
    simp only [ckTrunc_w16 hwidth, Config.ckBits, hwidth, BitVec.getLsbD_setWidth, ← Bool.and_assoc, hin]
  | w32 =>
    simp only [Config.ckTrunc, Config.ckBits, hwidth]
    by_cases hi : i < 32
    · simp [hi]
    · simp [hi, BitVec.getLsbD_of_ge v i (not_lt.mp hi)]

theorem getLsbD_of_mem_ckValues {c : Config} {v : U32} (h : v ∈ ckValues c) {i : Nat}
    (hi : c.ckBits ≤ i) : v.getLsbD i = false := by
  rw [← mem_ckValues.mp h, getLsbD_ckTrunc]
  simp [hi]

/-- Two register values that agree on their CK_WIDTH bits are the same. -/
theorem eq_of_mem_ckValues {c : Config} {v w : U32} (hv : v ∈ ckValues c) (hw : w ∈ ckValues c)
    (h : ∀ i < c.ckBits, v.getLsbD i = w.getLsbD i) : v = w := by
  refine BitVec.eq_of_getLsbD_eq fun i _ => ?_
  by_cases hi : i < c.ckBits
  · exact h i hi
  · rw [getLsbD_of_mem_ckValues hv (not_lt.mp hi), getLsbD_of_mem_ckValues hw (not_lt.mp hi)]

theorem xor_mem_ckValues {c : Config} {v w : U32} (hv : v ∈ ckValues c) (hw : w ∈ ckValues c) :
    v ^^^ w ∈ ckValues c := by
  refine mem_ckValues.mpr (BitVec.eq_of_getLsbD_eq fun i _ => ?_)
  rw [getLsbD_ckTrunc, BitVec.getLsbD_xor]
  by_cases hi : i < c.ckBits
  · simp only [hi, decide_true, Bool.true_and]
  · rw [getLsbD_of_mem_ckValues hv (not_lt.mp hi), getLsbD_of_mem_ckValues hw (not_lt.mp hi)]
    simp

/-! ### The shift of CRCSTEP loses nothing (R76, R83) -/

/-- A bit of the shifted register: the bit below it, and the generator's where the top bit fell out. -/
theorem getLsbD_crcShift (c : Config) (acc : U32) {i : Nat} (hi : i < c.ckBits) :
    (crcShift c acc).getLsbD i =
      ((decide (0 < i) && acc.getLsbD (i - 1)) ^^ (acc.getLsbD (c.ckBits - 1) && c.ckPoly.getLsbD i)) := by
  have hi32 : i < 32 := hi.trans_le (ckBits_le c)
  have hshift : (acc <<< 1).getLsbD i = (decide (0 < i) && acc.getLsbD (i - 1)) := by
    rw [BitVec.getLsbD_shiftLeft]
    grind
  unfold crcShift
  split <;> rename_i htop
  · rw [getLsbD_ckTrunc, BitVec.getLsbD_xor, hshift, htop, decide_eq_true hi, Bool.true_and, Bool.true_and]
  · rw [getLsbD_ckTrunc, hshift, Bool.eq_false_of_not_eq_true htop, decide_eq_true hi, Bool.true_and,
      Bool.false_and, Bool.xor_false]

/-- With the constant term set, the bit that fell out comes back as bit 0. -/
theorem getLsbD_zero_crcShift {c : Config} (hpoly : c.ckPoly.getLsbD 0 = true) (acc : U32) :
    (crcShift c acc).getLsbD 0 = acc.getLsbD (c.ckBits - 1) := by
  have hpos : 0 < c.ckBits := (by decide : 0 < 8).trans_le (eight_le_ckBits c)
  simp only [getLsbD_crcShift c acc hpos, hpoly, lt_irrefl, decide_false, Bool.false_and, Bool.false_xor,
    Bool.and_true]

theorem crcShift_injOn {c : Config} (hpoly : c.ckPoly.getLsbD 0 = true) :
    Set.InjOn (crcShift c) (ckValues c) := by
  intro v hv w hw h
  have htop : v.getLsbD (c.ckBits - 1) = w.getLsbD (c.ckBits - 1) := by
    rw [← getLsbD_zero_crcShift hpoly, h, getLsbD_zero_crcShift hpoly]
  refine eq_of_mem_ckValues hv hw fun i hi => ?_
  by_cases hlast : i + 1 < c.ckBits
  · have hbit : (crcShift c v).getLsbD (i + 1) = (crcShift c w).getLsbD (i + 1) := by rw [h]
    simpa [getLsbD_crcShift c _ hlast, htop] using hbit
  · obtain rfl : i = c.ckBits - 1 := by omega
    exact htop

theorem crcShifts_injOn {c : Config} (hpoly : c.ckPoly.getLsbD 0 = true) (k : Nat) :
    Set.InjOn (crcShifts c k) (ckValues c) := by
  induction k with
  | zero => exact Set.injOn_id _
  | succ k ih => exact ih.comp (crcShift_injOn hpoly) fun v _ => ckTrunc_crcShift c v

/-! ### A byte enters the register whole (R76) -/

theorem crcInput_mem_ckValues (c : Config) (b : Byte) : crcInput c b ∈ ckValues c := by
  refine mem_ckValues.mpr (BitVec.eq_of_getLsbD_eq fun i _ => ?_)
  rw [getLsbD_ckTrunc]
  have h8 := eight_le_ckBits c
  by_cases hi : i < c.ckBits
  · simp [hi]
  · have hout : 8 ≤ i - (c.ckBits - 8) := by omega
    simp [hi, crcInput, hout]

/-- The byte, reversed or not, stands in the top eight bits of the register. -/
theorem getLsbD_crcInput (c : Config) (b : Byte) {i : Nat} (hi : i < 8) :
    (crcInput c b).getLsbD (c.ckBits - 8 + i) = (if c.ckRefin then b.reverse else b).getLsbD i := by
  have hin : c.ckBits - 8 + i < 32 := by have := ckBits_le c; omega
  have hi32 : i < 32 := by omega
  rw [crcInput, BitVec.getLsbD_shiftLeft, BitVec.getLsbD_setWidth]
  simp only [hin, hi32, Nat.add_sub_cancel_left, not_lt.mpr (Nat.le_add_right _ _), decide_true,
    decide_false, Bool.not_false, Bool.true_and]

theorem reverse_injective {w : Nat} : Function.Injective (BitVec.reverse (w := w)) :=
  Function.LeftInverse.injective fun _ => BitVec.reverse_reverse_eq

theorem crcInput_injective (c : Config) : Function.Injective (crcInput c) := by
  intro a b h
  have hbyte : (if c.ckRefin then a.reverse else a) = if c.ckRefin then b.reverse else b :=
    BitVec.eq_of_getLsbD_eq fun i hi => by rw [← getLsbD_crcInput c a hi, h, getLsbD_crcInput c b hi]
  split at hbyte
  · exact reverse_injective hbyte
  · exact hbyte

/-! ### A byte sequence (R79, R81) -/

@[simp] theorem crcMany_nil (c : Config) (acc : U32) : crcMany c acc [] = acc := rfl

@[simp] theorem crcMany_cons (c : Config) (acc : U32) (b : Byte) (bs : List Byte) :
    crcMany c acc (b :: bs) = crcMany c (crcStep c acc b) bs := rfl

@[simp] theorem crcMany_append (c : Config) (acc : U32) (bs cs : List Byte) :
    crcMany c acc (bs ++ cs) = crcMany c (crcMany c acc bs) cs := List.foldl_append

theorem crcStep_mem_ckValues (c : Config) (acc : U32) (b : Byte) : crcStep c acc b ∈ ckValues c :=
  ckTrunc_crcStep c acc b

theorem crcMany_mem_ckValues {c : Config} {acc : U32} (h : acc ∈ ckValues c) (bs : List Byte) :
    crcMany c acc bs ∈ ckValues c := ckTrunc_crcMany h bs

/-- After the same byte, different registers stay different. -/
theorem crcStep_injOn {c : Config} (hpoly : c.ckPoly.getLsbD 0 = true) (b : Byte) :
    Set.InjOn (crcStep c · b) (ckValues c) := fun _ hv _ hw h =>
  (BitVec.xor_left_inj _).mp <|
    crcShifts_injOn hpoly 8 (xor_mem_ckValues hv (crcInput_mem_ckValues c b))
      (xor_mem_ckValues hw (crcInput_mem_ckValues c b)) h

/-- From the same register, different bytes lead to different registers. -/
theorem crcStep_injective_byte {c : Config} (hpoly : c.ckPoly.getLsbD 0 = true) {acc : U32}
    (hacc : acc ∈ ckValues c) : Function.Injective (crcStep c acc) := fun a b h =>
  crcInput_injective c <| (BitVec.xor_right_inj _).mp <|
    crcShifts_injOn hpoly 8 (xor_mem_ckValues hacc (crcInput_mem_ckValues c a))
      (xor_mem_ckValues hacc (crcInput_mem_ckValues c b)) h

/-- After the same bytes, different registers stay different. -/
theorem crcMany_injOn {c : Config} (hpoly : c.ckPoly.getLsbD 0 = true) (bs : List Byte) :
    Set.InjOn (crcMany c · bs) (ckValues c) := by
  induction bs with
  | nil => exact Set.injOn_id _
  | cons b bs ih => exact ih.comp (crcStep_injOn hpoly b) fun acc _ => crcStep_mem_ckValues c acc b

/-! ### The value read from the register (R80) -/

theorem reflectW_reflectW {c : Config} {v : U32} (h : v ∈ ckValues c) :
    reflectW c (reflectW c v) = v := by
  cases hwidth : c.ckWidth with
  | w16 =>
    have hv : (v.setWidth 16).setWidth 32 = v := (ckTrunc_w16 hwidth v).symm.trans (mem_ckValues.mp h)
    simp [reflectW, hwidth, BitVec.reverse_reverse_eq, hv]
  | w32 => simp [reflectW, hwidth, BitVec.reverse_reverse_eq]

theorem crcValue_injOn (c : Config) : Set.InjOn (crcValue c) (ckValues c) := by
  intro v hv w hw h
  have hread := (BitVec.xor_left_inj _).mp h
  split at hread
  · rw [← reflectW_reflectW hv, hread, reflectW_reflectW hw]
  · exact hread

/-- A changed byte anywhere in a sequence changes its checksum: the register differs after the byte, stays
different to the end, and is read as it is. -/
theorem checksum_ne_of_byte_ne {c : Config} (hinit : c.ckInit ∈ ckValues c)
    (hpoly : c.ckPoly.getLsbD 0 = true) {a b : Byte} (hab : a ≠ b) (pre post : List Byte) :
    checksum c (pre ++ a :: post) ≠ checksum c (pre ++ b :: post) := by
  have hpre := crcMany_mem_ckValues hinit pre
  have hstep := (crcStep_injective_byte hpoly hpre).ne hab
  have hpost := (crcMany_injOn hpoly post).ne (crcStep_mem_ckValues ..) (crcStep_mem_ckValues ..) hstep
  simpa only [checksum, crcMany_append, crcMany_cons] using
    (crcValue_injOn c).ne (crcMany_mem_ckValues (crcStep_mem_ckValues ..) post)
      (crcMany_mem_ckValues (crcStep_mem_ckValues ..) post) hpost

theorem ne_xor_bit {k : Nat} (hk : k < 8) (b : Byte) : b ≠ b ^^^ BitVec.ofNat 8 (2 ^ k) := by
  have hbit : ∀ k < 8, BitVec.ofNat 8 (2 ^ k) ≠ 0 := by decide
  exact fun h => hbit k hk ((BitVec.xor_right_inj b).mp (BitVec.xor_zero.trans h).symm)

/-- Settles O28: a flipped bit is a changed byte, which the shifts carry to the end. -/
theorem singleBitErrorDetected : Obligations.SingleBitErrorDetected :=
  fun _ pre post b _ hok hpoly hk =>
    checksum_ne_of_byte_ne (ok_ckInit hok) hpoly (ne_xor_bit hk b) pre post

/-! ### The checksum operations (R77 to R80) -/

/-- A checksum operation runs its body in BOOT and RUN. -/
theorem exec_checksum {i : Instr} {op : Byte} {s : State} (h : s.notHalted)
    (hop : opcodeOf i = some op) (hclass : opClass op = some .checksum) :
    exec i s = commit s (bodyOf i s) := by
  rw [exec_eq, hop]
  exact portGate_notHalted h hclass (.inr (.inl rfl))

theorem State.notHalted.withAcc {s : State} (h : s.notHalted) (acc : U32) :
    (s.withAcc acc).notHalted := h

theorem exec_ckReset {s : State} (h : s.notHalted) :
    exec .ckReset s = .next (s.withAcc s.cfg.ckInit) := exec_checksum h rfl rfl

theorem exec_ckUpdate {s : State} (h : s.notHalted) (b : Byte) :
    exec (.ckUpdate b) s = .next (s.withAcc (crcStep s.cfg s.ckAcc b)) := exec_checksum h rfl rfl

theorem exec_ckUpdateMany {s : State} (h : s.notHalted) (bs : List Byte) :
    exec (.ckUpdateMany bs) s = .next (s.withAcc (crcMany s.cfg s.ckAcc bs)) := exec_checksum h rfl rfl

theorem exec_ckValue {s : State} (h : s.notHalted) :
    exec .ckValue s = .next (s.setRes (crcValue s.cfg s.ckAcc)) := exec_checksum h rfl rfl

/-- CK.UPDATE_MANY from a register that was just written. -/
theorem exec_ckUpdateMany_withAcc {s : State} (h : s.notHalted) (acc : U32) (bs : List Byte) :
    exec (.ckUpdateMany bs) (s.withAcc acc) = .next (s.withAcc (crcMany s.cfg acc bs)) :=
  exec_ckUpdateMany (h.withAcc acc) bs

/-- Settles O26, by the next state of each operation and the fold over the parts of a sequence. -/
theorem checksumAccumulates : Obligations.ChecksumAccumulates := by
  intro s h
  refine ⟨exec_ckReset h, exec_ckUpdate h, exec_ckUpdateMany h [], fun b bs => ?_, fun bs cs => ?_⟩
  · refine ⟨_, exec_ckUpdate h b, ?_⟩
    rw [exec_ckUpdateMany h, exec_ckUpdateMany_withAcc h, crcMany_cons]
  · refine ⟨_, exec_ckUpdateMany h bs, ?_⟩
    rw [exec_ckUpdateMany h, exec_ckUpdateMany_withAcc h, crcMany_append]

/-- Settles O27: the register after CK.RESET and CK.UPDATE_MANY is that of Checksum (R81). -/
theorem checksumRead : Obligations.ChecksumRead := fun _ h =>
  ⟨exec_ckValue h, fun bs =>
    ⟨_, _, exec_ckReset h, exec_ckUpdateMany_withAcc h _ bs, exec_ckValue (h.withAcc _)⟩⟩

end Sys2Proof.Machine

namespace Sys2Proof.Machine

/-! ### The operations of boot and the receiver past their gates (R84 to R95, R140) -/

/-- BLK.BOOT and the receive operations run their body in BOOT and RUN. -/
theorem exec_notHalted {i : Instr} {op : Byte} {k : OpClass} {s : State} (h : s.notHalted)
    (hop : opcodeOf i = some op) (hclass : opClass op = some k)
    (hk : k = .boot ∨ k = .checksum ∨ k = .receive) : exec i s = commit s (bodyOf i s) := by
  rw [exec_eq, hop]
  exact portGate_notHalted h hclass hk

/-- An external operation runs its body in RUN. -/
theorem exec_external {i : Instr} {op : Byte} {s : State} (h : s.running)
    (hop : opcodeOf i = some op) (hclass : opClass op = some .external) :
    exec i s = commit s (bodyOf i s) := by
  rw [exec_eq, hop]
  exact portGate_run h hclass nofun

/-- FS.RXBYTE runs its body in RUN with either strategy (R130). -/
theorem exec_fsRxbyte {s : State} (h : s.inRun) (b : Byte) :
    exec (.fsRxbyte b) s = commit s (rxByte b s) :=
  exec_answer h rfl rfl rfl nofun

/-- A byte whose rule completes is received. -/
theorem exec_fsRxbyte_ok {s t : State} {b : Byte} (h : s.inRun) (hb : rxByte b s = .ok t) :
    exec (.fsRxbyte b) s = .next t := by
  rw [exec_fsRxbyte h, hb, commit_ok]

/-- A body that raises nothing has the same outcome from every state it is committed over. -/
theorem NoRaise.commit_eq {body : Body State} (h : NoRaise body) (s t : State) :
    commit s body = commit t body := by
  match body with
  | .ok _ => rfl
  | .error (.fault _) => rfl
  | .error (.refused _) => rfl
  | .error (.raise info) => exact absurd rfl (h info)

/-- A received byte raises nothing, so its outcome is the same over every state. -/
theorem exec_fsRxbyte_over {s : State} (h : s.inRun) (b : Byte) (u : State) :
    exec (.fsRxbyte b) s = commit u (rxByte b s) :=
  (exec_fsRxbyte h b).trans ((rxByte_noRaise b s).commit_eq s u)

/-! ### The address byte (R89) -/

theorem rxByte_awaitAddr {b : Byte} {s : State} (h : s.fs.state = .awaitAddr) :
    rxByte b s = rxAddress b s := by
  simp only [rxByte, h]

/-- One of the board's own diagnostic codes runs its service, that of a diagnostic row. -/
theorem rxAddress_diag {b : Byte} {s : State} {id : Identity} {i : Instr} (hid : s.self = .known id)
    (h : decodeDiag id b = some i) : opcodeOf i = none ∧ rxAddress b s = bodyOf i s := by
  unfold decodeDiag at h
  unfold rxAddress
  simp only [hid]
  split_ifs at h ⊢ <;> cases h <;> exact ⟨rfl, rfl⟩

/-- Every other byte is offered as the first of a header. -/
theorem rxAddress_other {b : Byte} {s : State}
    (h : ∀ id, s.self = .known id → decodeDiag id b = none) :
    rxAddress b s = .ok (rxHeaderStart b s) := by
  unfold rxAddress
  cases hself : s.self with
  | unread => rfl
  | invalid => rfl
  | known id =>
    have hnone := h id hself
    unfold decodeDiag at hnone
    split_ifs at hnone with hping hselftest hvalue
    simp only [hping, hselftest, hvalue, if_false]

/-- The codes of an identity are among the codes of its configuration (R10). -/
theorem decodeDiag_eq_none {c : Config} {id : Identity} {b : Byte} (hid : id ∈ c.identities)
    (h : b ∉ c.diagCodes) : decodeDiag id b = none := by
  have hown : b ∉ [id.diagPing, id.diagSelftest, id.diagValue] :=
    fun hb => h (List.mem_flatMap.mpr ⟨id, hid, hb⟩)
  simp only [List.mem_cons, List.not_mem_nil, or_false, not_or] at hown
  obtain ⟨hping, hselftest, hvalue⟩ := hown
  simp only [decodeDiag, hping, hselftest, hvalue, if_false]

/-- A byte that is no diagnostic code at all starts a header. -/
theorem rxByte_header {b : Byte} {s : State} (hst : s.fs.state = .awaitAddr)
    (hids : ∀ id, s.self = .known id → id ∈ s.cfg.identities) (hb : b ∉ s.cfg.diagCodes) :
    rxByte b s = .ok { s with fs := { s.fs with addr := b, state := .hdrType } } := by
  rw [rxByte_awaitAddr hst, rxAddress_other fun id hid => decodeDiag_eq_none (hids id hid) hb,
    rxHeaderStart, if_neg hb]

/-! ### The rest of the header (R90) -/

theorem rxByte_type {b : Byte} {s : State} (h : s.fs.state = .hdrType) :
    rxByte b s = .ok { s with fs := { s.fs with type := b, state := .hdrSizeLo } } := by
  simp only [rxByte, h]

theorem rxByte_sizeLo {b : Byte} {s : State} (h : s.fs.state = .hdrSizeLo) :
    rxByte b s = .ok { s with fs := { s.fs with size := b.setWidth 16, state := .hdrSizeHi } } := by
  simp only [rxByte, h]

theorem rxByte_sizeHi {b : Byte} {s : State} (h : s.fs.state = .hdrSizeHi) :
    rxByte b s = .ok { s with
      fs := classify s.cfg (isSelf s s.fs.addr)
        { s.fs with size := s.fs.size ||| (b.setWidth 16 <<< 8) } } := by
  simp only [rxByte, h]
  rfl

/-! ### Classification (R91) -/

@[simp] theorem FsRegs.flagged_bcast (c : Config) (f : FsRegs) :
    (f.flagged c).bcast = decide (f.addr = c.broadcastAddr) := rfl

/-- A frame to another board is dropped. -/
theorem classify_foreign {c : Config} {toSelf : Bool} {f : FsRegs} (hself : toSelf = false)
    (hall : (f.flagged c).bcast = false) :
    classify c toSelf f =
      { f with
        bcast := false, drainKind := .drop, drainRem := drainLength c f.size, state := .drain } := by
  rw [FsRegs.flagged_bcast] at hall
  simp [classify, hself, hall]

/-- A frame to this board or to all that does not fit PBUF is drained. -/
theorem classify_oversize {c : Config} {toSelf : Bool} {f : FsRegs}
    (hto : toSelf = true ∨ (f.flagged c).bcast = true) (hsize : c.maxPayload < f.size.toNat) :
    classify c toSelf f =
      { f.flagged c with
        drainKind := .oversize, drainRem := drainLength c f.size, state := .drain } := by
  rw [FsRegs.flagged_bcast, ← Bool.or_eq_true] at hto
  simp [classify, hto, hsize, FsRegs.flagged]

/-- A frame to this board or to all without a payload goes on with its footer. -/
theorem classify_empty {c : Config} {toSelf : Bool} {f : FsRegs}
    (hto : toSelf = true ∨ (f.flagged c).bcast = true) (hsize : f.size = 0) :
    classify c toSelf f = { f.flagged c with count := 0, foot := 0, state := .footer } := by
  rw [FsRegs.flagged_bcast, ← Bool.or_eq_true] at hto
  simp [classify, hto, hsize, FsRegs.flagged]

/-- A frame to this board or to all with a payload that fits PBUF goes on with it. -/
theorem classify_payload {c : Config} {toSelf : Bool} {f : FsRegs}
    (hto : toSelf = true ∨ (f.flagged c).bcast = true) (hsize : f.size ≠ 0)
    (hfits : f.size.toNat ≤ c.maxPayload) :
    classify c toSelf f = { f.flagged c with count := 0, state := .payload } := by
  rw [FsRegs.flagged_bcast, ← Bool.or_eq_true] at hto
  simpa [classify, hto, not_lt.mpr hfits, FsRegs.flagged] using hsize

/-! ### Payload, footer and drain (R92 to R94) -/

theorem rxByte_payload {b : Byte} {s : State} (h : s.fs.state = .payload)
    (hcount : s.fs.count.toNat < s.cfg.maxPayload) :
    rxByte b s = .ok { s with
      pbuf := Memory.write s.pbuf s.fs.count.toNat b, fs := countPayload s.fs } := by
  simp only [rxByte, h, rxPayload, memWrite, if_pos hcount, body_ok_bind]

theorem rxByte_footer {b : Byte} {s : State} (h : s.fs.state = .footer)
    (hcount : (s.fs.count + 1).toNat ≠ s.cfg.ckb) :
    rxByte b s = .ok { s with fs := countFooter s.cfg b s.fs } := by
  simp only [rxByte, h, rxFooter, if_neg hcount]

/-- The last byte of the footer ends the frame with its verify. -/
theorem rxByte_footer_last {b : Byte} {s : State} (h : s.fs.state = .footer)
    (hcount : (s.fs.count + 1).toNat = s.cfg.ckb) :
    rxByte b s = verifyFrame { s with fs := countFooter s.cfg b s.fs } := by
  simp only [rxByte, h, rxFooter, if_pos hcount]

theorem rxByte_drain {b : Byte} {s : State} (h : s.fs.state = .drain) (hleft : s.fs.drainRem ≠ 1) :
    rxByte b s = .ok { s with fs := { s.fs with drainRem := s.fs.drainRem - 1 } } := by
  simp only [rxByte, h, rxDrain, sub_eq_zero, if_neg hleft]

/-- The last byte of a drain ends it. -/
theorem rxByte_drain_last {b : Byte} {s : State} (h : s.fs.state = .drain)
    (hleft : s.fs.drainRem = 1) :
    rxByte b s = drainEnd { s with fs := { s.fs with drainRem := 0, state := .awaitAddr } } := by
  simp only [rxByte, h, rxDrain, sub_eq_zero, if_pos hleft]

/-- Only an oversize frame to this board alone is answered. -/
theorem drainEnd_silent {s : State} (h : s.fs.drainKind = .drop ∨ s.fs.bcast = true) :
    drainEnd s = .ok s := by
  unfold drainEnd
  split
  · rfl
  · next hkind => rw [if_pos (h.resolve_left (by simp [hkind]))]

theorem drainEnd_oversize {s : State} {id : Identity} (hpid : s.cfg.strategy = .pid)
    (hid : s.self = .known id) (hkind : s.fs.drainKind = .oversize) :
    drainEnd s = .ok (answered id s.cfg.mtError (bytesLe16 s.cfg.errTooLarge) s) := by
  simp only [drainEnd, hkind, pidOnly_pid hpid, replyError_known _ hid]
  split
  · next hall => simp only [answered, hall, if_true]
  · rfl

/-! ### The verify (R93) -/

/-- The checksum of the frame held in the receiver's registers and PBUF. -/
def frameChecksum (s : State) : U32 :=
  checksum s.cfg (frameHeader s.fs ++ Memory.bytes s.pbuf 0 s.fs.size.toNat)

theorem verifyFrame_mismatch {s : State} (hfits : s.fs.size.toNat ≤ s.cfg.maxPayload)
    (h : frameChecksum s ≠ s.fs.foot) : verifyFrame s = .ok s := by
  simp only [verifyFrame, framePayload_ok hfits, body_ok_bind]
  exact if_neg h

theorem verifyFrame_match {s : State} (hfits : s.fs.size.toNat ≤ s.cfg.maxPayload)
    (h : frameChecksum s = s.fs.foot) : verifyFrame s = service s := by
  simp only [verifyFrame, framePayload_ok hfits, body_ok_bind]
  exact if_pos h

/-- The verify of a frame of a known type with a right footer is the message type's row (R93, R98). -/
theorem commit_verifyFrame_match {s u : State} {i : Instr} (hu : u.inRun)
    (hfits : u.fs.size.toNat ≤ u.cfg.maxPayload) (h : frameChecksum u = u.fs.foot)
    (hi : decodeType u.cfg u.fs.type = some i) : commit s (verifyFrame u) = exec i u := by
  rw [verifyFrame_match hfits h, (service_noRaise u).commit_eq s u, service_of_type hi hu]

/-- A type without a row is answered with ERR_UNKNOWN_TYPE (R107). -/
theorem service_unknown {s : State} {id : Identity} (hpid : s.cfg.strategy = .pid)
    (hid : s.self = .known id) (h : decodeType s.cfg s.fs.type = none) :
    service s = .ok (answered id s.cfg.mtError (bytesLe16 s.cfg.errUnknownType) s) := by
  unfold decodeType at h
  split_ifs at h with hping hselftest hreadvalue hsetcoeff hsetbatch hsleep herror
  simp only [service, hping, hselftest, hreadvalue, hsetcoeff, hsetbatch, hsleep, if_false]
  exact (pidOnly_pid hpid).trans (replyError_known _ hid)

/-- A footer byte enters a register of CK_WIDTH bits at its place (R93). -/
theorem footerWith_eq {c : Config} {b : Byte} {f : FsRegs} (hfoot : c.ckTrunc f.foot = f.foot)
    (hcount : f.count.toNat < c.ckb) :
    footerWith c b f = f.foot ||| (b.setWidth 32 <<< (8 * f.count.toNat)) := by
  have hbits : c.ckBits = 8 * c.ckb := by
    unfold Config.ckBits Config.ckb
    split <;> rfl
  refine BitVec.eq_of_getLsbD_eq fun i _ => ?_
  rw [footerWith, getLsbD_ckTrunc]
  by_cases hi : i < c.ckBits
  · simp only [hi, decide_true, Bool.true_and]
  · have hbyte : b.getLsbD (i - 8 * f.count.toNat) = false := BitVec.getLsbD_of_ge _ _ (by omega)
    simp [hi, hbyte, getLsbD_of_mem_ckValues (mem_ckValues.mpr hfoot) (not_lt.mp hi)]

end Sys2Proof.Machine

namespace Sys2Proof.Machine

/-! ### The statements on one operation (R84 to R95) -/

/-- Settles O29, by the mode of the block. -/
theorem bootReadsIdentity : Obligations.BootReadsIdentity := by
  intro s strap h
  have hrun (hm : s.blk.mode ≠ .halted) : exec (.blkBoot strap) s = commit s (bootOnce strap s) :=
    exec_notHalted ⟨h, hm⟩ rfl rfl (.inl rfl)
  refine ⟨fun hm id hid => ?_, fun hm hid => ?_, fun hm => ?_, fun hm t => ?_⟩
  · rw [hrun (by simp [hm])]
    simp only [bootOnce, hm, bootIdentity, hid, commit_ok]
  · rw [hrun (by simp [hm])]
    simp only [bootOnce, hm, bootIdentity, hid, commit_ok]
  · rw [hrun (by simp [hm])]
    simp only [bootOnce, hm, commit_raise]
  · rw [exec_halted _ h hm]
    exact nofun

/-- Settles O30, by the identity of the board and the state of the receiver. -/
theorem startAndSelfMatch : Obligations.StartAndSelfMatch := by
  intro s h
  have hself (a : Byte) : exec (.fsIsSelf a) s = .next (s.setRes (resBool (isSelf s a))) :=
    exec_external h rfl rfl
  have hstart : exec .fsStart s = .next (startReceiver s) :=
    exec_external h rfl rfl
  refine ⟨fun id a hid => ?_, fun a hid => ?_, fun hst => ?_, fun hst => ?_⟩
  · have hmatch : resBool (isSelf s a) = if a = id.addr then 1 else 0 := by
      simp only [isSelf, hid, resBool, beq_iff_eq]
    rw [hself, hmatch]
    rfl
  · have hnone : isSelf s a = false := by
      rcases hid with hid | hid <;> simp only [isSelf, hid]
    rw [hself, hnone]
    rfl
  · rw [hstart, startReceiver, if_pos hst]
  · rw [hstart, startReceiver, if_neg hst]

/-- Settles O31, by whether a frame is in progress. -/
theorem timeoutRestartsReceiver : Obligations.TimeoutRestartsReceiver := by
  intro s h
  have hrun : exec .fsTimeout s = .next (readTimeout s) :=
    exec_notHalted h rfl rfl (.inr (.inr rfl))
  have harmed : ∀ f ∈ [FsState.hdrType, .hdrSizeLo, .hdrSizeHi, .payload, .footer, .drain],
      timeoutArmed f = true := by decide
  have hunarmed : ∀ f ∈ [FsState.stopped, .awaitAddr], timeoutArmed f = false := by decide
  refine ⟨fun hst => ?_, fun hst => ?_⟩
  · rw [hrun, readTimeout, if_pos (harmed _ hst)]
    rfl
  · rw [hrun, readTimeout, if_neg (by simp [hunarmed _ hst])]

/-- Settles O32, by what the byte is to this board. -/
theorem addressByte : Obligations.AddressByte := by
  intro s b h
  refine ⟨fun hst => ?_, fun id hr hid hmem hst =>
    ⟨fun i hi => ?_, fun hnone hcode => ?_, fun hb => ?_⟩⟩
  · rw [exec_notHalted h rfl rfl (.inr (.inr rfl))]
    exact congrArg (commit s) (rxByte_lost (.inl hst))
  · obtain ⟨hop, hbody⟩ := rxAddress_diag hid hi
    obtain ⟨t, ht⟩ := rxAddress_ok b hr.2
    rw [exec_fsRxbyte hr.1, rxByte_awaitAddr hst, exec_wire hr.1 hop, ← hbody, ht]
    exact ⟨rfl, t, rfl⟩
  · refine exec_fsRxbyte_ok hr.1 ?_
    rw [rxByte_awaitAddr hst, rxAddress_other (by simp [hid, hnone]), rxHeaderStart, if_pos hcode]
  · exact exec_fsRxbyte_ok hr.1 (rxByte_header hst (by simp [hid, hmem]) hb)

/-- Settles O33: the clauses are those of the classification. -/
theorem headerAndClassification : Obligations.HeaderAndClassification := by
  intro s b h
  refine ⟨fun hst => exec_fsRxbyte_ok h (rxByte_type hst),
    fun hst => exec_fsRxbyte_ok h (rxByte_sizeLo hst), fun hst => ?_⟩
  rintro size toAll left hsize rfl hleft
  obtain rfl : left = drainLength s.cfg size := by
    rw [hleft, ← drainLength_toNat, BitVec.ofNat_toNat, BitVec.setWidth_eq]
  have hexec := exec_fsRxbyte_ok h (rxByte_sizeHi (b := b) hst)
  rw [← hsize] at hexec
  refine ⟨fun hself hall => ?_, fun hto hlarge => ?_, fun hto hzero => ?_, fun hto hpos hfits => ?_⟩
  · rw [hexec, classify_foreign]
    exacts [hself, hall]
  · rw [hexec, classify_oversize]
    exacts [rfl, hto, hlarge]
  · subst hzero
    rw [hexec, classify_empty]
    exacts [rfl, hto, rfl]
  · rw [hexec, classify_payload]
    exacts [rfl, hto, hpos, hfits]

/-- Settles O34, by the read rules of PBUF. -/
theorem payloadCapture : Obligations.PayloadCapture := fun _ _ h hmem hst hcount =>
  ⟨_, exec_fsRxbyte_ok h.1 (rxByte_payload hst hcount), Memory.read_write_same hmem,
    fun _ ha => Memory.read_write_other ha⟩

/-- Settles O35: the last byte ends the frame with its verify, and a service raises nothing. -/
theorem footerVerify : Obligations.FooterVerify := by
  intro s b foot h hst hcount hfits htrunc hfoot
  have hle := ckb_le s.cfg
  have hsucc : (s.fs.count + 1).toNat = s.fs.count.toNat + 1 := by bv_omega
  rw [← footerWith_eq htrunc hcount] at hfoot
  refine ⟨fun hmore => ?_, fun hlast u hu => ?_⟩
  · rw [exec_fsRxbyte_ok h.1 (rxByte_footer hst (by omega)), countFooter, if_neg (by omega), hfoot]
  · have hexec : exec (.fsRxbyte b) s = commit s (verifyFrame u) := by
      rw [exec_fsRxbyte h.1, rxByte_footer_last hst (by omega), countFooter, if_pos (by omega),
        ← hfoot, hu]
    subst hu
    refine ⟨fun hne => ?_, fun heq => ⟨fun i hi => ?_, fun id hnone hid => ?_⟩⟩
    · rw [hexec, verifyFrame_mismatch, commit_ok]
      exacts [hfits, hne]
    · exact hexec.trans (commit_verifyFrame_match h.1 hfits heq hi)
    · rw [hexec, verifyFrame_match, service_unknown, commit_ok]
      exacts [h.2, hid, hnone, hfits, heq]

/-- Settles O36: the last byte of a drain ends it, answered or not. -/
theorem drainDiscards : Obligations.DrainDiscards := by
  intro s b h hst
  refine ⟨fun hmore => exec_fsRxbyte_ok h.1 (rxByte_drain hst hmore), fun hlast u hu => ?_⟩
  have hexec : exec (.fsRxbyte b) s = commit s (drainEnd u) := by
    rw [exec_fsRxbyte h.1, rxByte_drain_last hst hlast, hu]
  subst hu
  refine ⟨fun hsilent => ?_, fun id hid hkind => ?_⟩
  · rw [hexec, drainEnd_silent, commit_ok]
    exact hsilent
  · rw [hexec, drainEnd_oversize, commit_ok]
    exacts [h.2, hid, hkind]

end Sys2Proof.Machine

namespace Sys2Proof.Machine

/-! ### A run of payload bytes in PBUF (R39, R92) -/

/-- The memory with bytes written at consecutive addresses from `a` on. -/
def Memory.store : List Host.Cell → Nat → List Byte → List Host.Cell
  | m, _, [] => m
  | m, a, b :: bs => Memory.store (Memory.write m a b) (a + 1) bs

theorem Memory.store_cons (m : List Host.Cell) (a : Nat) (b : Byte) (bs : List Byte) :
    Memory.store m a (b :: bs) = Memory.store (Memory.write m a b) (a + 1) bs := rfl

/-- Bytes outside the run read as before. -/
theorem Memory.read_store_other {m : List Host.Cell} {a x : Nat} {bs : List Byte}
    (h : x < a ∨ a + bs.length ≤ x) : Memory.read (Memory.store m a bs) x = Memory.read m x := by
  induction bs generalizing m a with
  | nil => rfl
  | cons b bs ih =>
    rw [List.length_cons] at h
    rw [Memory.store_cons, ih (by omega), Memory.read_write_other (by omega)]

/-- The run reads as written, in a canonical memory it fits. -/
theorem Memory.bytes_store {size : Nat} {m : List Host.Cell} {a : Nat} {bs : List Byte}
    (hm : Memory.wf size m = true) (h : a + bs.length ≤ size) :
    Memory.bytes (Memory.store m a bs) a bs.length = bs := by
  induction bs generalizing m a with
  | nil => rfl
  | cons b bs ih =>
    rw [List.length_cons] at h
    have hfirst : Memory.read (Memory.store m a (b :: bs)) a = b := by
      rw [Memory.store_cons, Memory.read_store_other (by omega), Memory.read_write_same hm]
    rw [List.length_cons, Memory.bytes, hfirst, Memory.store_cons,
      ih (Memory.wf_write hm (by omega)) (by omega)]

/-! ### Byte sequences as integers (R12, R44) -/

theorem leValue_append (bs cs : List Byte) :
    leValue (bs ++ cs) = leValue bs + 2 ^ (8 * bs.length) * leValue cs := by
  induction bs with
  | nil => simp [leValue]
  | cons b bs ih =>
    rw [List.cons_append, leValue, leValue, ih, List.length_cons, Nat.mul_succ, Nat.pow_add]
    ring

theorem leValue_lt (bs : List Byte) : leValue bs < 2 ^ (8 * bs.length) := by
  induction bs with
  | nil => simp [leValue]
  | cons b bs ih =>
    have := b.isLt
    rw [leValue, List.length_cons, Nat.mul_succ, Nat.pow_add]
    omega

/-- The register that holds a byte sequence, low byte first. -/
def leWord (bs : List Byte) : U32 := BitVec.ofNat 32 (leValue bs)

theorem toNat_leWord {bs : List Byte} (h : bs.length ≤ 4) : (leWord bs).toNat = leValue bs :=
  Nat.mod_eq_of_lt ((leValue_lt bs).trans_le (Nat.pow_le_pow_right (by decide) (by omega)))

/-- One more byte enters above those before it. -/
theorem leWord_concat {bs : List Byte} (b : Byte) (h : bs.length < 4) :
    leWord (bs ++ [b]) = leWord bs ||| (b.setWidth 32 <<< (8 * bs.length)) := by
  have hlen : (bs ++ [b]).length ≤ 4 := by simpa using h
  have hvalue : leValue (bs ++ [b]) = b.toNat <<< (8 * bs.length) + leValue bs := by
    simp only [leValue_append, leValue, Nat.shiftLeft_eq]
    ring
  have hbyte : b.toNat < 2 ^ 32 := b.isLt.trans (by decide)
  have hhigh : b.toNat <<< (8 * bs.length) < 2 ^ 32 :=
    calc b.toNat <<< (8 * bs.length) ≤ leValue (bs ++ [b]) := by omega
      _ < 2 ^ 32 := toNat_leWord hlen ▸ (leWord (bs ++ [b])).isLt
  refine BitVec.eq_of_toNat_eq ?_
  rw [toNat_leWord hlen, BitVec.toNat_or, toNat_leWord h.le, BitVec.toNat_shiftLeft,
    BitVec.toNat_setWidth, Nat.mod_eq_of_lt hbyte, Nat.mod_eq_of_lt hhigh, hvalue,
    Nat.shiftLeft_add_eq_or_of_lt (leValue_lt bs), Nat.or_comm]

/-- A sequence no longer than a footer fits the checksum register (R24, R56). -/
theorem leWord_mem_ckValues {c : Config} {bs : List Byte} (h : bs.length ≤ c.ckb) :
    leWord bs ∈ ckValues c := by
  have hlt := (leValue_lt bs).trans_le (Nat.pow_le_pow_right (by decide) (Nat.mul_le_mul_left 8 h))
  have hword := toNat_leWord (h.trans (ckb_le c))
  refine mem_ckValues.mpr ?_
  cases hwidth : c.ckWidth with
  | w16 =>
    simp only [Config.ckb, hwidth] at hlt
    refine BitVec.eq_of_toNat_eq ?_
    rw [ckTrunc_w16 hwidth]
    simp only [BitVec.toNat_setWidth, hword]
    omega
  | w32 => simp only [Config.ckTrunc, hwidth]

/-- The footer bytes of a register value, read back. -/
theorem leWord_footerBytes {c : Config} {v : U32} (h : v ∈ ckValues c) :
    leWord (footerBytes c v) = v := by
  have hv := v.isLt
  refine BitVec.eq_of_toNat_eq ?_
  cases hwidth : c.ckWidth with
  | w16 =>
    have hlow : v.toNat % 2 ^ 16 % 2 ^ 32 = v.toNat := by
      simpa only [ckTrunc_w16 hwidth, BitVec.toNat_setWidth] using
        congrArg BitVec.toNat (mem_ckValues.mp h)
    simp only [footerBytes, hwidth, leWord, leValue, BitVec.toNat_ofNat, BitVec.extractLsb'_toNat,
      Nat.shiftRight_eq_div_pow]
    omega
  | w32 =>
    simp only [footerBytes, hwidth, leWord, leValue, BitVec.toNat_ofNat, BitVec.extractLsb'_toNat,
      Nat.shiftRight_eq_div_pow]
    omega

/-- The register value of footer bytes, written again. -/
theorem footerBytes_leWord {c : Config} {bs : List Byte} (h : bs.length = c.ckb) :
    footerBytes c (leWord bs) = bs := by
  have hbyte (b : Byte) : b.toNat < 2 ^ 8 := b.isLt
  unfold Config.ckb at h
  cases hwidth : c.ckWidth with
  | w16 =>
    simp only [hwidth] at h
    obtain ⟨b0, b1, rfl⟩ := List.length_eq_two.mp h
    simp only [footerBytes, hwidth, List.cons.injEq, and_true, ← BitVec.toNat_inj, leWord, leValue,
      BitVec.extractLsb'_toNat, BitVec.toNat_ofNat, Nat.shiftRight_eq_div_pow]
    have := hbyte b0
    have := hbyte b1
    omega
  | w32 =>
    simp only [hwidth] at h
    match bs, h with
    | [b0, b1, b2, b3], _ =>
      simp only [footerBytes, hwidth, List.cons.injEq, and_true, ← BitVec.toNat_inj, leWord, leValue,
        BitVec.extractLsb'_toNat, BitVec.toNat_ofNat, Nat.shiftRight_eq_div_pow]
      have := hbyte b0
      have := hbyte b1
      have := hbyte b2
      have := hbyte b3
      omega

/-- Different footers are different register values (R56). -/
theorem leWord_injOn (c : Config) : Set.InjOn leWord {bs | bs.length = c.ckb} :=
  fun bs hbs cs hcs h => by
    rw [← footerBytes_leWord (c := c) hbs, h, footerBytes_leWord hcs]

/-- The size field is put together from its two bytes (R90). -/
theorem size_of_bytes (v : U16) :
    (v.extractLsb' 0 8).setWidth 16 ||| ((v.extractLsb' 8 8).setWidth 16 <<< 8) = v := by
  refine BitVec.eq_of_getLsbD_eq fun i hi => ?_
  by_cases h8 : i < 8
  · simp [h8, hi]
  · have hback : 8 + (i - 8) = i := by omega
    have hlt : i - 8 < 8 := by omega
    simp [h8, hi, hback, hlt]

/-! ### The footer a board expects (R10, R56, R80) -/

theorem ok_ckXorout {c : Config} (h : c.ok = true) : c.ckXorout ∈ ckValues c := by
  have := ok_typesOk h
  simp only [Config.typesOk, Bool.and_eq_true, decide_eq_true_eq] at this
  exact mem_ckValues.mpr (by tauto)

theorem reflectW_mem_ckValues {c : Config} {v : U32} : reflectW c v ∈ ckValues c := by
  refine mem_ckValues.mpr ?_
  cases hwidth : c.ckWidth with
  | w16 => simp [ckTrunc_w16 hwidth, reflectW, hwidth]
  | w32 => simp only [Config.ckTrunc, hwidth]

/-- A checksum has CK_WIDTH bits (R80, R81). -/
theorem checksum_mem_ckValues {c : Config} (h : c.ok = true) (bs : List Byte) :
    checksum c bs ∈ ckValues c := by
  refine xor_mem_ckValues ?_ (ok_ckXorout h)
  split
  · exact reflectW_mem_ckValues
  · exact crcMany_mem_ckValues (mem_ckValues.mpr (ok_ckInit h)) bs

theorem footerBytes_length (c : Config) (v : U32) : (footerBytes c v).length = c.ckb := by
  cases hwidth : c.ckWidth <;> simp only [footerBytes, Config.ckb, hwidth] <;> rfl

/-! ### Sequences of received bytes (R74) -/

theorem receiveBytes_cons {s t : State} {b : Byte} {bs : List Byte}
    (h : exec (.fsRxbyte b) s = .next t) : receiveBytes (b :: bs) s = receiveBytes bs t := by
  simp only [receiveBytes, h]

/-- A byte whose rule completes leaves the rest to be received. -/
theorem receiveBytes_cons_ok {s t : State} {b : Byte} {bs : List Byte} (hb : rxByte b s = .ok t)
    (h : s.inRun) : receiveBytes (b :: bs) s = receiveBytes bs t :=
  receiveBytes_cons (exec_fsRxbyte_ok h hb)

theorem receiveBytes_singleton (s : State) (b : Byte) :
    receiveBytes [b] s = nextState? (exec (.fsRxbyte b) s) := by
  cases h : exec (.fsRxbyte b) s <;> simp only [receiveBytes, h, nextState?]

theorem receiveBytes_append {s t : State} {bs cs : List Byte} (h : receiveBytes bs s = some t) :
    receiveBytes (bs ++ cs) s = receiveBytes cs t := by
  induction bs generalizing s with
  | nil => rw [← Option.some.inj h, List.nil_append]
  | cons b bs ih =>
    cases hb : exec (.fsRxbyte b) s with
    | next u =>
      rw [receiveBytes_cons hb] at h
      rw [List.cons_append, receiveBytes_cons hb, ih h]
    | fault f => simp only [receiveBytes, hb, reduceCtorEq] at h
    | refused r => simp only [receiveBytes, hb, reduceCtorEq] at h

/-! ### A whole header (R89 to R91) -/

/-- The registers with a header in them, before its classification. -/
def FsRegs.withHeader (f : FsRegs) (addr type : Byte) (size : U16) : FsRegs :=
  { f with addr := addr, type := type, size := size, state := .hdrSizeHi }

/-- A board that waits for a frame, and an address byte that is no diagnostic code (R88, R89). -/
structure AwaitsHeader (s : State) (addr : Byte) : Prop where
  inRun : s.inRun
  waits : s.fs.state = .awaitAddr
  identity : ∀ id, s.self = .known id → id ∈ s.cfg.identities
  noCode : addr ∉ s.cfg.diagCodes

/-- A whole header is received and classified. -/
theorem AwaitsHeader.receiveBytes_header {s : State} {addr : Byte} (h : AwaitsHeader s addr)
    (type : Byte) (size : U16) :
    receiveBytes (addr :: type :: bytesLe16 size) s = some { s with
      fs := classify s.cfg (isSelf s addr) (s.fs.withHeader addr type size) } := by
  rw [bytesLe16, receiveBytes_cons_ok (rxByte_header h.waits h.identity h.noCode) h.inRun,
    receiveBytes_cons_ok (rxByte_type ?_) ?_, receiveBytes_cons_ok (rxByte_sizeLo ?_) ?_,
    receiveBytes_cons_ok (rxByte_sizeHi ?_) ?_]
  · simp only [size_of_bytes]
    rfl
  exacts [rfl, h.inRun, rfl, h.inRun, rfl, h.inRun]

/-! ### A whole drain (R94) -/

/-- The bytes of a dropped frame leave everything but the receiver's registers as it was. -/
theorem receiveBytes_drain {s : State} {bs : List Byte} (h : s.inRun) (hst : s.fs.state = .drain)
    (hkind : s.fs.drainKind = .drop) (hlen : s.fs.drainRem.toNat = bs.length) (hpos : bs ≠ []) :
    receiveBytes bs s =
      some { s with fs := { s.fs with drainRem := 0, state := .awaitAddr } } := by
  induction bs generalizing s with
  | nil => exact absurd rfl hpos
  | cons b bs ih =>
    rw [List.length_cons] at hlen
    by_cases hlast : bs = []
    · subst hlast
      have hone : s.fs.drainRem = 1 := BitVec.eq_of_toNat_eq hlen
      rw [receiveBytes_cons_ok
        ((rxByte_drain_last hst hone).trans (drainEnd_silent (.inl hkind))) h]
      rfl
    · have hmore : s.fs.drainRem.toNat ≠ 1 := by
        have := List.length_pos_iff.mpr hlast
        omega
      rw [receiveBytes_cons_ok (rxByte_drain hst fun e => hmore (e ▸ rfl)) h]
      exact ih h hst hkind (by bv_omega) hlast

/-! ### A whole payload (R92) -/

/-- A payload is stored from FS.count on, and the receiver goes on with the footer. -/
theorem receiveBytes_payload {s : State} {p : List Byte} (h : s.inRun) (hst : s.fs.state = .payload)
    (hlen : s.fs.count.toNat + p.length = s.fs.size.toNat)
    (hfits : s.fs.size.toNat ≤ s.cfg.maxPayload) (hpos : p ≠ []) :
    receiveBytes p s = some { s with
      pbuf := Memory.store s.pbuf s.fs.count.toNat p
      fs := { s.fs with count := 0, foot := 0, state := .footer } } := by
  induction p generalizing s with
  | nil => exact absurd rfl hpos
  | cons b p ih =>
    rw [List.length_cons] at hlen
    have hsize := s.fs.size.isLt
    rw [receiveBytes_cons_ok (rxByte_payload hst (by omega)) h]
    by_cases hlast : p = []
    · subst hlast
      have hfull : s.fs.count + 1 = s.fs.size := by
        rw [List.length_nil] at hlen
        bv_omega
      rw [countPayload, if_pos hfull]
      rfl
    · have hp := List.length_pos_iff.mpr hlast
      have hnext : (s.fs.count + 1).toNat = s.fs.count.toNat + 1 := by bv_omega
      have hmore : s.fs.count + 1 ≠ s.fs.size := by bv_omega
      have hleft : (s.fs.count + 1).toNat + p.length = s.fs.size.toNat := by omega
      rw [countPayload, if_neg hmore, ih]
      · simp only [hnext, Memory.store_cons]
      · exact h
      · exact hst
      · exact hleft
      · exact hfits
      · exact hlast

/-! ### A whole footer (R93) -/

/-- The registers with the bytes of a footer received so far. -/
def FsRegs.footerRead (f : FsRegs) (bs : List Byte) : FsRegs :=
  { f with foot := leWord bs, count := BitVec.ofNat 16 bs.length }

theorem FsRegs.footerRead_count_succ {c : Config} {f : FsRegs} {bs : List Byte}
    (h : bs.length < c.ckb) :
    ((f.footerRead bs).count + 1).toNat = bs.length + 1 := by
  have hle := ckb_le c
  have hnow : (f.footerRead bs).count.toNat = bs.length := Nat.mod_eq_of_lt (by omega)
  bv_omega

/-- One more footer byte. -/
theorem countFooter_footerRead {c : Config} {b : Byte} {f : FsRegs} {bs : List Byte}
    (h : bs.length < c.ckb) :
    countFooter c b (f.footerRead bs) =
      { f.footerRead (bs ++ [b]) with
        state := if bs.length + 1 = c.ckb then .awaitAddr else f.state } := by
  have hle := ckb_le c
  have hcount : (f.footerRead bs).count.toNat = bs.length := Nat.mod_eq_of_lt (by omega)
  have hnext : (f.footerRead bs).count + 1 = (f.footerRead (bs ++ [b])).count := by
    simp only [FsRegs.footerRead, List.length_append, List.length_singleton, BitVec.ofNat_add]
    rfl
  have hfoot : footerWith c b (f.footerRead bs) = leWord (bs ++ [b]) := by
    rw [leWord_concat b (by omega), footerWith_eq _ (hcount.trans_lt h), hcount]
    · rfl
    · exact mem_ckValues.mp (leWord_mem_ckValues h.le)
  rw [countFooter, hfoot, FsRegs.footerRead_count_succ h, hnext]
  rfl

theorem rxByte_footerRead {s : State} {b : Byte} {bs : List Byte} (hst : s.fs.state = .footer)
    (h : bs.length + 1 < s.cfg.ckb) :
    rxByte b { s with fs := s.fs.footerRead bs } =
      .ok { s with fs := s.fs.footerRead (bs ++ [b]) } := by
  have hlt : bs.length < s.cfg.ckb := by omega
  rw [rxByte_footer, countFooter_footerRead hlt, if_neg h.ne]
  · rfl
  · exact hst
  · rw [FsRegs.footerRead_count_succ hlt]
    exact h.ne

theorem rxByte_footerRead_last {s : State} {b : Byte} {bs : List Byte} (hst : s.fs.state = .footer)
    (h : bs.length + 1 = s.cfg.ckb) :
    rxByte b { s with fs := s.fs.footerRead bs } =
      verifyFrame { s with fs := { s.fs.footerRead (bs ++ [b]) with state := .awaitAddr } } := by
  have hlt : bs.length < s.cfg.ckb := by omega
  rw [rxByte_footer_last, countFooter_footerRead hlt, if_pos h]
  · exact hst
  · rw [FsRegs.footerRead_count_succ hlt]
    exact h

/-- The rest of a footer ends the frame with its verify. -/
theorem receiveBytes_footer {s : State} {bs rest : List Byte} (h : s.inRun)
    (hst : s.fs.state = .footer) (hlen : bs.length + rest.length = s.cfg.ckb) (hpos : rest ≠ [])
    (u : State) :
    receiveBytes rest { s with fs := s.fs.footerRead bs } =
      nextState? (commit u (verifyFrame { s with
        fs := { s.fs.footerRead (bs ++ rest) with state := .awaitAddr } })) := by
  induction rest generalizing bs with
  | nil => exact absurd rfl hpos
  | cons b rest ih =>
    rw [List.length_cons] at hlen
    by_cases hlast : rest = []
    · subst hlast
      rw [receiveBytes_singleton, exec_fsRxbyte_over (u := u), rxByte_footerRead_last hst hlen]
      exact h
    · have hmore : bs.length + 1 < s.cfg.ckb := by
        have := List.length_pos_iff.mpr hlast
        omega
      rw [receiveBytes_cons_ok (rxByte_footerRead hst hmore) h, List.append_cons bs b rest]
      have hlen' : (bs ++ [b]).length + rest.length = s.cfg.ckb := by
        rw [List.length_append, List.length_singleton]
        omega
      exact ih hlen' hlast

/-! ### A whole frame to this board or to all (R97) -/

theorem ok_codes_nodup {c : Config} (h : c.ok = true) :
    (c.broadcastAddr :: (c.identities.map (·.addr) ++ c.diagCodes)).Nodup := by
  simp only [Config.ok, Config.codesDistinct, Bool.and_eq_true, decide_eq_true_eq] at h
  obtain ⟨⟨⟨⟨hcodes, -⟩, -⟩, -⟩, -⟩ := h
  exact hcodes

/-- No address is a diagnostic code (R10). -/
theorem ok_addr_not_code {c : Config} {id : Identity} {addr : Byte} (h : c.ok = true)
    (hid : id ∈ c.identities) (haddr : addr = id.addr ∨ addr = c.broadcastAddr) :
    addr ∉ c.diagCodes := by
  obtain ⟨hbroadcast, hrest⟩ := List.nodup_cons.mp (ok_codes_nodup h)
  rcases haddr with rfl | rfl
  · exact (List.nodup_append'.mp hrest).2.2 (List.mem_map.mpr ⟨id, hid, rfl⟩)
  · exact fun hcode => hbroadcast (List.mem_append.mpr (.inr hcode))

/-- A frame to this board or to all meets a board that waits for one. -/
theorem AwaitsHeader.of_accepted {s : State} {id : Identity} {addr : Byte} (h : s.inRun)
    (hst : s.fs.state = .awaitAddr) (hid : s.self = .known id) (hmem : id ∈ s.cfg.identities)
    (haddr : addr = id.addr ∨ addr = s.cfg.broadcastAddr) : AwaitsHeader s addr :=
  ⟨h, hst, by simp [hid, hmem], ok_addr_not_code h.1 hmem haddr⟩

/-- Such a frame passes the address filter (R86, R91). -/
theorem accepted_of_addr {s : State} {id : Identity} {addr : Byte} (hid : s.self = .known id)
    (haddr : addr = id.addr ∨ addr = s.cfg.broadcastAddr) :
    isSelf s addr = true ∨ decide (addr = s.cfg.broadcastAddr) = true := by
  simpa only [isSelf, hid, beq_iff_eq, decide_eq_true_eq] using haddr

/-- The state of a board that waits for the footer of a frame whose payload it has captured. -/
def frameCaptured (s : State) (addr type : Byte) (p : List Byte) : State :=
  { s with
    pbuf := Memory.store s.pbuf 0 p
    fs :=
      { (s.fs.withHeader addr type (BitVec.ofNat 16 p.length)).flagged s.cfg with
        count := 0, foot := 0, state := .footer } }

/-- The state of a board that has received a whole frame. -/
def frameReceived (s : State) (addr type : Byte) (p foot : List Byte) : State :=
  { frameCaptured s addr type p with
    fs := { (frameCaptured s addr type p).fs.footerRead foot with state := .awaitAddr } }

/-- Header and payload of a frame that is accepted and fits PBUF. -/
theorem AwaitsHeader.receiveBytes_captured {s : State} {addr : Byte} {p : List Byte}
    (h : AwaitsHeader s addr)
    (hto : isSelf s addr = true ∨ decide (addr = s.cfg.broadcastAddr) = true)
    (hfits : p.length ≤ s.cfg.maxPayload) (type : Byte) :
    receiveBytes (addr :: type :: (bytesLe16 (BitVec.ofNat 16 p.length) ++ p)) s =
      some (frameCaptured s addr type p) := by
  have hmax := ok_maxPayload h.inRun.1
  have hsize : (BitVec.ofNat 16 p.length).toNat = p.length := Nat.mod_eq_of_lt (by omega)
  have hheader := h.receiveBytes_header type (BitVec.ofNat 16 p.length)
  by_cases hp : p = []
  · subst hp
    rw [classify_empty hto rfl] at hheader
    rw [List.append_nil, hheader]
    rfl
  · have hpos := List.length_pos_iff.mpr hp
    rw [classify_payload hto (by simp only [FsRegs.withHeader]; bv_omega)
      (hsize.trans_le hfits)] at hheader
    rw [← List.cons_append, ← List.cons_append, receiveBytes_append hheader, receiveBytes_payload]
    · rfl
    · exact h.inRun
    · rfl
    · exact (Nat.zero_add _).trans hsize.symm
    · exact hsize.trans_le hfits
    · exact hp

/-- A whole frame that is accepted and fits PBUF ends with its verify. -/
theorem AwaitsHeader.receiveBytes_frame {s : State} {addr : Byte} {p foot : List Byte}
    (h : AwaitsHeader s addr)
    (hto : isSelf s addr = true ∨ decide (addr = s.cfg.broadcastAddr) = true)
    (hfits : p.length ≤ s.cfg.maxPayload) (hfoot : foot.length = s.cfg.ckb) (type : Byte) :
    receiveBytes (addr :: type :: (bytesLe16 (BitVec.ofNat 16 p.length) ++ p ++ foot)) s =
      nextState? (commit s (verifyFrame (frameReceived s addr type p foot))) := by
  have hpos : foot ≠ [] := List.length_pos_iff.mp (hfoot ▸ ckb_pos s.cfg)
  rw [← List.cons_append, ← List.cons_append,
    receiveBytes_append (h.receiveBytes_captured hto hfits type)]
  exact receiveBytes_footer (s := frameCaptured s addr type p) (bs := []) h.inRun rfl
    ((Nat.zero_add _).trans hfoot) hpos s

theorem frameReceived_size {s : State} {p : List Byte} (hc : s.cfg.ok = true)
    (hfits : p.length ≤ s.cfg.maxPayload) (addr type : Byte) (foot : List Byte) :
    (frameReceived s addr type p foot).fs.size.toNat = p.length := by
  have hmax := ok_maxPayload hc
  exact Nat.mod_eq_of_lt (by omega)

/-- The footer of R56 for a frame with this header and payload. -/
def frameFooter (c : Config) (addr type : Byte) (p : List Byte) : List Byte :=
  footerBytes c (checksum c (addr :: type :: (bytesLe16 (BitVec.ofNat 16 p.length) ++ p)))

/-- What the verify of a received frame compares its footer with (R93). -/
theorem frameChecksum_frameReceived {s : State} {addr type : Byte} {p foot : List Byte}
    (hc : s.cfg.ok = true) (hmem : MemoryInv s) (hfits : p.length ≤ s.cfg.maxPayload) :
    frameChecksum (frameReceived s addr type p foot) = leWord (frameFooter s.cfg addr type p) := by
  have hpayload : Memory.bytes (frameReceived s addr type p foot).pbuf 0 p.length = p :=
    Memory.bytes_store hmem (by omega)
  rw [frameChecksum, frameReceived_size hc hfits, hpayload, frameFooter,
    leWord_footerBytes (checksum_mem_ckValues hc _)]
  rfl

/-! ### The statements on whole frames (R97) -/

/-- Settles O37: the header is classified as foreign, and what follows is drained. -/
theorem foreignFrameIgnored : Obligations.ForeignFrameIgnored := by
  intro s addr type p foot h hst hself hall hcode hlen hfoot hids
  have hheader := (AwaitsHeader.mk h hst hids hcode).receiveBytes_header type (BitVec.ofNat 16 p.length)
  rw [classify_foreign hself (decide_eq_false hall)] at hheader
  have hsize : (BitVec.ofNat 16 p.length).toNat = p.length := Nat.mod_eq_of_lt hlen
  have hleft : (drainLength s.cfg (BitVec.ofNat 16 p.length)).toNat = (p ++ foot).length := by
    rw [drainLength_toNat, hsize, List.length_append, hfoot]
  have hpos : p ++ foot ≠ [] := by
    have := ckb_pos s.cfg
    refine List.length_pos_iff.mp ?_
    rw [List.length_append]
    omega
  rw [List.append_assoc, ← List.cons_append, ← List.cons_append, receiveBytes_append hheader]
  exact ⟨_, receiveBytes_drain h rfl rfl hleft hpos, rfl, rfl⟩

/-- Settles O39: the verify does not find the checksum in the footer. -/
theorem corruptFrameDiscarded : Obligations.CorruptFrameDiscarded := by
  intro s id addr type p foot h hmem hst hid hidm haddr hfits hlen hfoot
  have hframe := (AwaitsHeader.of_accepted h hst hid hidm haddr).receiveBytes_frame
    (accepted_of_addr hid haddr) hfits hlen type
  have hwrong : frameChecksum (frameReceived s addr type p foot) ≠ leWord foot := by
    rw [frameChecksum_frameReceived h.1 hmem hfits]
    exact (leWord_injOn s.cfg).ne (footerBytes_length ..) hlen (Ne.symm hfoot)
  rw [verifyFrame_mismatch ((frameReceived_size h.1 hfits ..).trans_le hfits) hwrong] at hframe
  exact ⟨_, hframe, rfl, rfl, fun a ha => Memory.read_store_other (.inr (by omega))⟩

/-- Settles O38: the footer of R56 is the checksum the verify computes, and the service follows. -/
theorem validFrameServiced : Obligations.ValidFrameServiced := by
  intro s id addr type p i h hmem hst hid hidm haddr hfits htype
  have hframe := (AwaitsHeader.of_accepted h hst hid hidm haddr).receiveBytes_frame
    (foot := frameFooter s.cfg addr type p) (accepted_of_addr hid haddr) hfits
    (footerBytes_length ..) type
  have hsize := frameReceived_size h.1 hfits addr type (frameFooter s.cfg addr type p)
  rw [commit_verifyFrame_match (u := frameReceived s addr type p _) h (hsize.trans_le hfits)
    (frameChecksum_frameReceived h.1 hmem hfits) htype] at hframe
  exact ⟨_, hframe, rfl, rfl, rfl, rfl, hsize, rfl, Memory.bytes_store hmem (by omega),
    fun a ha => Memory.read_store_other (.inr (by omega))⟩

end Sys2Proof.Machine

namespace Sys2Proof.Machine

/-! ### Services past their gates (R98, R108, R130) -/

/-- In RUN a service of the PID strategy whose body completes is a step. -/
theorem exec_service_ok {i : Instr} {s t : State} {body : Body State} (h : s.running)
    (hop : opcodeOf i = none) (hi : bodyOf i s = pidOnly s body) (ht : body = .ok t) :
    exec i s = .next t := by
  rw [exec_wire h.1 hop, hi, pidOnly_pid h.2, ht, commit_ok]

/-- In RUN set-coefficients, which either strategy keeps, is a step when its body completes. -/
theorem exec_mtSetcoeff_ok {s t : State} (h : s.inRun) (ht : serveSetcoeff s = .ok t) :
    exec .mtSetcoeff s = .next t := by
  rw [exec_wire h rfl, bodyOf, ht, commit_ok]

/-! ### Offering a batch to the queue (R121) -/

/-- A batch longer than MAX_SP is not queued. -/
theorem enqueueBatch_oversize {c : Config} {b : Batch} (q : List Batch) (h : c.maxSp < b.count) :
    enqueueBatch c b q = (q, c.errBadSize) :=
  if_pos h

/-- A full queue is left as it is. -/
theorem enqueueBatch_full {c : Config} {b : Batch} {q : List Batch} (hb : b.count ≤ c.maxSp)
    (hq : c.qdepth ≤ q.length) : enqueueBatch c b q = (q, c.errQueueFull) := by
  rw [enqueueBatch, if_neg (not_lt.mpr hb), if_neg (not_lt.mpr hq)]

/-- A batch that fits joins a queue with room at its end. -/
theorem enqueueBatch_room {c : Config} {b : Batch} {q : List Batch} (hb : b.count ≤ c.maxSp)
    (hq : q.length < c.qdepth) : enqueueBatch c b q = (q ++ [b], 0) := by
  rw [enqueueBatch, if_neg (not_lt.mpr hb), if_pos hq]

/-- The queue after an offer whose status is ignored (R102). -/
theorem enqueueBatch_queue (c : Config) (b : Batch) (q : List Batch) :
    (enqueueBatch c b q).1 =
      if b.count ≤ c.maxSp ∧ q.length < c.qdepth then q ++ [b] else q := by
  by_cases hb : b.count ≤ c.maxSp
  · by_cases hq : q.length < c.qdepth
    · rw [enqueueBatch_room hb hq, if_pos ⟨hb, hq⟩]
    · rw [enqueueBatch_full hb (not_lt.mp hq), if_neg fun h => hq h.2]
  · rw [enqueueBatch_oversize q (not_le.mp hb), if_neg fun h => hb h.1]

/-- Offering a batch writes the queue and nothing else. -/
theorem enqueue_eq {s : State} {b : Batch} {q : List Batch} {status : U16}
    (h : enqueueBatch s.cfg b s.sch.queue = (q, status)) :
    enqueue b s = { s with sch := { s.sch with queue := q } } ∧ enqueueStatus b s = status := by
  simp only [enqueue, enqueueStatus, h, and_self]

/-! ### Integers in a payload (R12, R39) -/

@[simp] theorem leValue_bytesLe16 (v : U16) : leValue (bytesLe16 v) = v.toNat := by
  have := v.isLt
  simp only [leValue, bytesLe16, BitVec.extractLsb'_toNat, Nat.shiftRight_eq_div_pow]
  omega

@[simp] theorem leWord_bytesLe32 (v : U32) : leWord (bytesLe32 v) = v := by
  have := v.isLt
  refine BitVec.eq_of_toNat_eq ?_
  simp only [leWord, leValue, bytesLe32, BitVec.toNat_ofNat, BitVec.extractLsb'_toNat,
    Nat.shiftRight_eq_div_pow]
  omega

/-- A run of bytes that is two sequences one after the other is two runs. -/
theorem Memory.bytes_eq_append {m : List Host.Cell} {a n k : Nat} {xs ys : List Byte}
    (h : Memory.bytes m a (n + k) = xs ++ ys) (hx : xs.length = n) :
    Memory.bytes m a n = xs ∧ Memory.bytes m (a + n) k = ys := by
  rw [Memory.bytes_add] at h
  exact List.append_inj h ((Memory.bytes_length m a n).trans hx.symm)

/-- A u16 field of the payload is read as its value. -/
theorem memRead16_field {s : State} {a : Nat} {v : U16} (hs : a + 2 ≤ s.fs.size.toNat)
    (hm : s.fs.size.toNat ≤ s.cfg.maxPayload) (hv : Memory.bytes s.pbuf a 2 = bytesLe16 v) :
    memRead16 s a = .ok v := by
  rw [memRead16_ok hs (hs.trans hm), hv, leValue_bytesLe16, BitVec.ofNat_toNat, BitVec.setWidth_eq]

/-! ### Set-coefficients (R60, R104) -/

/-- A payload of another size is answered before the strategy is looked at. -/
theorem serveSetcoeff_badSize {s : State} {id : Identity} (hid : s.self = .known id)
    (h : s.fs.size ≠ 12) :
    serveSetcoeff s = .ok (answered id s.cfg.mtError (bytesLe16 s.cfg.errBadSize) s) := by
  rw [serveSetcoeff, if_pos h, replyError_known _ hid]

/-- The coefficients are read from a payload of 12 bytes, whatever the bytes are. -/
theorem serveSetcoeff_reads {s : State} (hc : s.cfg.ok = true) (h : s.fs.size = 12) :
    serveSetcoeff s =
      let kp := leWord (Memory.bytes s.pbuf 0 4)
      let ki := leWord (Memory.bytes s.pbuf 4 4)
      let kd := leWord (Memory.bytes s.pbuf 8 4)
      replyToSetcoeff (setCoefficients kp ki kd s).2 (setCoefficients kp ki kd s).1 := by
  have hsize : s.fs.size.toNat = 12 := congrArg BitVec.toNat h
  have hmax := (ok_maxPayload hc).1
  rw [serveSetcoeff, if_neg (not_not.mpr h), memRead32_ok (by omega) (by omega), body_ok_bind,
    memRead32_ok (by omega) (by omega), body_ok_bind, memRead32_ok (by omega) (by omega), body_ok_bind]
  rfl

/-- The three fields of a set-coefficients payload. -/
theorem coefficientsPayload_fields {m : List Host.Cell} {kp ki kd : F32}
    (h : Memory.bytes m 0 12 = coefficientsPayload kp ki kd) :
    leWord (Memory.bytes m 0 4) = kp ∧ leWord (Memory.bytes m 4 4) = ki ∧
      leWord (Memory.bytes m 8 4) = kd := by
  obtain ⟨h, hkd⟩ := Memory.bytes_eq_append (n := 8) (k := 4) h rfl
  obtain ⟨hkp, hki⟩ := Memory.bytes_eq_append (n := 4) (k := 4) h rfl
  exact ⟨hkp ▸ leWord_bytesLe32 kp, hki ▸ leWord_bytesLe32 ki, hkd ▸ leWord_bytesLe32 kd⟩

/-- With the PID strategy the coefficients are loaded (R125). -/
theorem setCoefficients_pid {s : State} (kp ki kd : F32) (h : s.cfg.strategy = .pid) :
    setCoefficients kp ki kd s = ({ s with pid := loadCoefficients s.cfg kp ki kd s.pid }, 0) := by
  simp only [setCoefficients, h]

/-- Without the PID strategy they are refused by the status (R125). -/
theorem setCoefficients_pulse {s : State} (kp ki kd : F32) (h : s.cfg.strategy = .pulse) :
    setCoefficients kp ki kd s = (s, s.cfg.errNotPid) := by
  simp only [setCoefficients, h]

theorem serveSetcoeff_notPid {s : State} {id : Identity} (hc : s.cfg.ok = true)
    (hid : s.self = .known id) (h : s.fs.size = 12) (hp : s.cfg.strategy = .pulse) :
    serveSetcoeff s = .ok (answered id s.cfg.mtError (bytesLe16 s.cfg.errNotPid) s) := by
  simp only [serveSetcoeff_reads hc h, setCoefficients_pulse _ _ _ hp]
  rw [replyToSetcoeff, if_pos rfl, replyError_known _ hid]

theorem serveSetcoeff_loads {s : State} {id : Identity} {kp ki kd : F32} (hc : s.cfg.ok = true)
    (hid : s.self = .known id) (h : s.fs.size = 12) (hp : s.cfg.strategy = .pid)
    (hcode : s.cfg.errNotPid ≠ 0)
    (hbytes : Memory.bytes s.pbuf 0 12 = coefficientsPayload kp ki kd) :
    serveSetcoeff s = .ok (answered id s.cfg.mtSetcoeff []
      { s with pid := loadCoefficients s.cfg kp ki kd s.pid }) := by
  obtain ⟨hkp, hki, hkd⟩ := coefficientsPayload_fields hbytes
  simp only [serveSetcoeff_reads hc h, hkp, hki, hkd, setCoefficients_pid _ _ _ hp]
  rw [replyToSetcoeff, if_neg hcode.symm]
  exact reply_known _ _ hid

/-! ### Set-setpoint-batch (R61, R105) -/

/-- The bytes of a setpoint in a set-setpoint-batch payload. -/
def setpointBytes (x : Setpoint) : List Byte := bytesLe16 x.duration ++ bytesLe16 x.target

theorem batchPayload_eq (b : Batch) :
    batchPayload b = bytesLe16 b.delay ++ bytesLe16 b.loop ++ bytesLe16 (BitVec.ofNat 16 b.count) ++
      b.sp.flatMap setpointBytes := rfl

/-- Setpoints are read as they were written (R61). -/
theorem readSetpoints_payload {s : State} (hfit : s.fs.size.toNat ≤ s.cfg.maxPayload)
    (sp : List Setpoint) {a : Nat} (hs : a + 4 * sp.length ≤ s.fs.size.toNat)
    (h : Memory.bytes s.pbuf a (4 * sp.length) = sp.flatMap setpointBytes) :
    readSetpoints s a sp.length = .ok sp := by
  induction sp generalizing a with
  | nil => rfl
  | cons x sp ih =>
    rw [List.length_cons] at hs
    rw [List.length_cons, Nat.mul_succ, Nat.add_comm, List.flatMap_cons] at h
    obtain ⟨hx, hrest⟩ := Memory.bytes_eq_append h rfl
    obtain ⟨hduration, htarget⟩ := Memory.bytes_eq_append (n := 2) (k := 2) hx rfl
    rw [List.length_cons, readSetpoints, memRead16_field (by omega) hfit hduration, body_ok_bind,
      memRead16_field (by omega) hfit htarget, body_ok_bind, ih (by omega) hrest, body_ok_bind]

/-- The payload's batch is read as it was written, and its count with it (R61). -/
theorem readBatch_payload {s : State} {b : Batch} (hfit : s.fs.size.toNat ≤ s.cfg.maxPayload)
    (hs : s.fs.size.toNat = 6 + 4 * b.count)
    (h : Memory.bytes s.pbuf 0 s.fs.size.toNat = batchPayload b) :
    memRead16 s 4 = .ok (BitVec.ofNat 16 b.count) ∧ readBatch s b.count = .ok b := by
  rw [hs, batchPayload_eq] at h
  obtain ⟨hhead, hsp⟩ := Memory.bytes_eq_append h rfl
  obtain ⟨hfirst, hcount⟩ := Memory.bytes_eq_append (n := 4) (k := 2) hhead rfl
  obtain ⟨hdelay, hloop⟩ := Memory.bytes_eq_append (n := 2) (k := 2) hfirst rfl
  refine ⟨memRead16_field (by omega) hfit hcount, ?_⟩
  rw [readBatch, memRead16_field (by omega) hfit hdelay, body_ok_bind,
    memRead16_field (by omega) hfit hloop, body_ok_bind, Batch.count,
    readSetpoints_payload hfit b.sp hs.ge hsp, body_ok_bind]

/-- A payload whose size is not that of its count is answered with ERR_BAD_SIZE. -/
theorem offerPayload_badSize {s : State} {id : Identity} (hid : s.self = .known id)
    (hfit : s.fs.size.toNat ≤ s.cfg.maxPayload)
    (h : s.fs.size.toNat < 6 ∨ s.fs.size.toNat ≠ 6 + 4 * leValue (Memory.bytes s.pbuf 4 2)) :
    offerPayload s = .ok (answered id s.cfg.mtError (bytesLe16 s.cfg.errBadSize) s) := by
  rw [offerPayload]
  split
  · exact replyError_known _ hid
  · rename_i hsix
    have hcount : leValue (Memory.bytes s.pbuf 4 2) < 2 ^ 16 := leValue_lt _
    rw [memRead16_ok (by omega) (by omega), body_ok_bind, BitVec.toNat_ofNat,
      Nat.mod_eq_of_lt hcount, if_pos (h.resolve_left hsix), replyError_known _ hid]

/-- A payload that is the bytes of a batch offers that batch. -/
theorem offerPayload_batch {s : State} {b : Batch} (hfit : s.fs.size.toNat ≤ s.cfg.maxPayload)
    (hs : s.fs.size.toNat = 6 + 4 * b.count)
    (h : Memory.bytes s.pbuf 0 s.fs.size.toNat = batchPayload b) :
    offerPayload s = replyToSetbatch (enqueueStatus b s) (enqueue b s) := by
  obtain ⟨hcount, hbatch⟩ := readBatch_payload hfit hs h
  have hsmall : (BitVec.ofNat 16 b.count).toNat = b.count :=
    Nat.mod_eq_of_lt (by have := s.fs.size.isLt; omega)
  rw [offerPayload, if_neg (by omega), hcount, body_ok_bind, hsmall, if_neg (not_not.mpr hs), hbatch,
    body_ok_bind]

/-- A batch that arrived in one frame is not longer than MAX_SP (R61). -/
theorem count_le_maxSp {c : Config} {b : Batch} (h : 6 + 4 * b.count ≤ c.maxPayload) :
    b.count ≤ c.maxSp := by
  rw [Config.maxSp]
  omega

theorem offerPayload_appends {s : State} {id : Identity} {b : Batch} (hid : s.self = .known id)
    (hfit : s.fs.size.toNat ≤ s.cfg.maxPayload) (hs : s.fs.size.toNat = 6 + 4 * b.count)
    (h : Memory.bytes s.pbuf 0 s.fs.size.toNat = batchPayload b)
    (hroom : s.sch.queue.length < s.cfg.qdepth) (hcode : s.cfg.errQueueFull ≠ 0) :
    offerPayload s = .ok (answered id s.cfg.mtSetbatch []
      { s with sch := { s.sch with queue := s.sch.queue ++ [b] } }) := by
  obtain ⟨hqueue, hstatus⟩ := enqueue_eq (enqueueBatch_room (count_le_maxSp (hs ▸ hfit)) hroom)
  rw [offerPayload_batch hfit hs h, hqueue, hstatus, replyToSetbatch, if_neg hcode.symm]
  exact reply_known _ _ hid

theorem offerPayload_queueFull {s : State} {id : Identity} {b : Batch} (hid : s.self = .known id)
    (hfit : s.fs.size.toNat ≤ s.cfg.maxPayload) (hs : s.fs.size.toNat = 6 + 4 * b.count)
    (h : Memory.bytes s.pbuf 0 s.fs.size.toNat = batchPayload b)
    (hfull : s.cfg.qdepth ≤ s.sch.queue.length) :
    offerPayload s = .ok (answered id s.cfg.mtError (bytesLe16 s.cfg.errQueueFull) s) := by
  obtain ⟨hqueue, hstatus⟩ := enqueue_eq (enqueueBatch_full (count_le_maxSp (hs ▸ hfit)) hfull)
  rw [offerPayload_batch hfit hs h, hqueue, hstatus, replyToSetbatch, if_pos rfl,
    replyError_known _ hid]

/-! ### The statements on the service routine (R101 to R108, R122) -/

/-- Settles O40: these three services read no payload and only reply. -/
theorem pingAndUnknownReplies : Obligations.PingAndUnknownReplies := fun _ _ h hid =>
  ⟨exec_service_ok h rfl rfl (reply_known _ _ hid),
    exec_service_ok h rfl rfl (replyError_known _ hid), exec_service_ok h rfl rfl rfl⟩

/-- Settles O41: the offer's queue is the statement's, and the status goes nowhere. -/
theorem selftestReplies : Obligations.SelftestReplies := by
  intro s id q h hid hq
  have hoffer : enqueue s.cfg.selftestBatch s = { s with sch := { s.sch with queue := q } } := by
    rw [enqueue, enqueueBatch_queue, ← hq]
  rw [← hoffer]
  refine ⟨exec_service_ok h rfl rfl (reply_known _ _ hid), exec_service_ok h rfl rfl ?_⟩
  rw [hoffer]
  rfl

/-- Settles O42: the text is of the draw at the old counter, the reply is sent after it is counted. -/
theorem readValueReplies : Obligations.ReadValueReplies := fun s _ h hid =>
  ⟨exec_service_ok h rfl rfl (reply_known (s := s.countDraw) _ _ hid), exec_service_ok h rfl rfl rfl⟩

/-- Settles O43, by the size of the payload and then the strategy. -/
theorem setCoefficientsRequest : Obligations.SetCoefficientsRequest := fun _ _ h hid =>
  ⟨fun hsize => exec_mtSetcoeff_ok h (serveSetcoeff_badSize hid hsize),
    fun hsize hp => exec_mtSetcoeff_ok h (serveSetcoeff_notPid h.1 hid hsize hp),
    fun _ _ _ hsize hp hcode hbytes =>
      exec_mtSetcoeff_ok h (serveSetcoeff_loads h.1 hid hsize hp hcode hbytes)⟩

/-- Settles O44, by the shape of the payload and then the room in the queue. -/
theorem setBatchRequest : Obligations.SetBatchRequest := fun _ _ h hid hfit =>
  ⟨fun hsize => exec_service_ok h rfl rfl (offerPayload_badSize hid hfit hsize),
    fun _ hsize hbytes =>
      ⟨fun hroom hcode =>
        exec_service_ok h rfl rfl (offerPayload_appends hid hfit hsize hbytes hroom hcode),
      fun hfull => exec_service_ok h rfl rfl (offerPayload_queueFull hid hfit hsize hbytes hfull)⟩⟩

/-- Settles O45: the port operation and the request both run SCH.STOP, the request then replies. -/
theorem stopDiscardsQueue : Obligations.StopDiscardsQueue := by
  rintro s _ rfl
  refine ⟨fun h => ?_, fun id h hid => ?_⟩
  · exact exec_internal h
  · exact exec_service_ok h rfl rfl (reply_known (s := stopMotion s) _ _ hid)

end Sys2Proof.Machine

namespace Sys2Proof.Machine

/-! ### The scheduler's operations past their gates (R110, R111, R121, R123, R140) -/

/-- An agent's operation runs its body in RUN. -/
theorem exec_agent {i : Instr} {op : Byte} {s : State} (h : s.running)
    (hop : opcodeOf i = some op) (hclass : opClass op = some .agent) :
    exec i s = commit s (bodyOf i s) := by
  rw [exec_eq, hop]
  exact portGate_run h hclass nofun

/-- An agent's operation lapses in BOOT (log 7). -/
theorem exec_agent_boot {i : Instr} {op : Byte} {s : State} (h : s.defined)
    (hm : s.blk.mode = .boot) (hop : opcodeOf i = some op) (hclass : opClass op = some .agent) :
    exec i s = .next s := by
  rw [exec_eq, hop]
  exact portGate_agentBoot h hm hclass

/-- The state with a tick pending. -/
def State.timed (s : State) : State := { s with sch := { s.sch with tickPending := true } }

theorem exec_schTimer {s : State} (h : s.running) : exec .schTimer s = .next s.timed :=
  exec_agent h rfl rfl

/-- A tick that is not pending lapses (log 7). -/
theorem exec_schTick_lapses {s : State} (h : s.running) (hp : s.sch.tickPending = false) (p : F32) :
    exec (.schTick p) s = .next s := by
  rw [exec_agent h rfl rfl, bodyOf, pendingTick, if_neg (Bool.eq_false_iff.mp hp), commit_ok]

/-- The result of an offer to the queue, by what the queue rule answers (R121). -/
theorem exec_schEnqueue {s : State} {b : Batch} {q : List Batch} {status : U16} (h : s.running)
    (he : enqueueBatch s.cfg b s.sch.queue = (q, status)) :
    exec (.schEnqueue b) s =
      .next { s with sch := { s.sch with queue := q }, res := some (resI16 status) } := by
  obtain ⟨hqueue, hstatus⟩ := enqueue_eq he
  rw [exec_external h rfl rfl, bodyOf, hqueue, hstatus]
  rfl

/-! ### A tick, by the registers steps 2 and 3 leave (R111 to R115) -/

/-- Every state has registers after steps 2 and 3. -/
theorem exists_afterSlots (r : SchRegs) : ∃ r0, AfterSlots r r0 :=
  (tickActivate_total (tickFetch r)).imp fun _ => tickActivate_cases

/-- Steps 2 and 3 do not look at SCH.tick_pending (R113, R114). -/
theorem AfterSlots.withPending {r r0 : SchRegs} (h : AfterSlots r r0) (f : Bool) :
    AfterSlots { r with tickPending := f } { r0 with tickPending := f } := by
  cases h with
  | nothing hn hq => exact .nothing (r := { r with tickPending := f }) hn hq
  | waits b q hs hd => exact .waits (r := { r with tickPending := f }) b q hs hd
  | activates b q x hs hd hx => exact .activates (r := { r with tickPending := f }) b q x hs hd hx
  | activatesEmpty b q hs hd he =>
    exact .activatesEmpty (r := { r with tickPending := f }) b q hs hd he

/-- The state after steps 1 to 4 of a tick whose steps 2 and 3 leave the scheduler registers `r`
(`tickPrepare_ok`). -/
def State.prepared (p : F32) (r : SchRegs) (s : State) : State :=
  { s with
    rnd := filterSample s.cfg p { s.rnd with sample := p }
    sch := tickDropEmpty { r with tickPending := false } }

/-- A pending tick runs steps 5 to 8 over the state steps 1 to 4 leave. -/
theorem exec_schTick {s : State} {r : SchRegs} (h : s.running) (hp : s.sch.tickPending = true)
    (ha : AfterSlots s.sch r) (p : F32) :
    exec (.schTick p) s = commit s (tickPlay (s.prepared p r)) := by
  rw [exec_agent h rfl rfl, bodyOf, pendingTick, if_pos hp, tick, tickPrepare_ok ha, body_ok_bind]
  rfl

/-- Step 4 leaves nothing current when no batch is, or one without setpoints (R115). -/
theorem tickDropEmpty_nothing {r : SchRegs} (h : ∀ b, r.cur = some b → b.sp = []) :
    tickDropEmpty r = { r with cur := none } := by
  unfold tickDropEmpty
  split
  · rename_i hcur
    rw [← hcur]
  · rename_i b hcur
    exact if_pos (congrArg List.length (h b hcur))

/-- Step 4 leaves a batch that has setpoints (R115). -/
theorem tickDropEmpty_batch {r : SchRegs} {b : Batch} (hcur : r.cur = some b) (hsp : b.sp ≠ []) :
    tickDropEmpty r = r := by
  simp only [tickDropEmpty, hcur]
  exact if_neg (mt List.eq_nil_of_length_eq_zero hsp)

theorem State.prepared_nothing {s : State} {p : F32} {r : SchRegs}
    (h : ∀ b, r.cur = some b → b.sp = []) :
    s.prepared p r = { s with
      rnd := filterSample s.cfg p { s.rnd with sample := p }
      sch := { r with tickPending := false, cur := none } } := by
  rw [State.prepared, tickDropEmpty_nothing (r := { r with tickPending := false }) h]

theorem State.prepared_batch {s : State} {p : F32} {r : SchRegs} {b : Batch} (hcur : r.cur = some b)
    (hsp : b.sp ≠ []) :
    s.prepared p r = { s with
      rnd := filterSample s.cfg p { s.rnd with sample := p }
      sch := { r with tickPending := false } } := by
  rw [State.prepared, tickDropEmpty_batch (r := { r with tickPending := false }) hcur hsp]

/-! ### The advance of the play position (R119, R120) -/

/-- The registers `r` with the tick taken and the drive value `d` emitted (R111, R118). -/
def SchRegs.driven (d : Byte) (r : SchRegs) : SchRegs :=
  { r with tickPending := false, renderActive := true, drive := d }

/-- The index of the setpoint that follows the play position `i` in the batch (R119). -/
def playNext (b : Batch) (i : Nat) : Nat := if i + 1 = b.count then 0 else i + 1

/-- The registers after step 8, when `x` is the setpoint that follows the play position (R119, R120). -/
def advanced (c : Config) (b : Batch) (x : Setpoint) (r : SchRegs) : SchRegs :=
  if r.rem = 1 then
    { r with
      idx := BitVec.ofNat 16 (playNext b r.idx.toNat)
      rem := playTicks x.duration
      target := x.target
      loops :=
        if r.idx.toNat + 1 = b.count ∧ r.loops ≠ c.loopInf then r.loops - 1 else r.loops }
  else { r with rem := r.rem - 1 }

/-- Within a setpoint the rest of its ticks goes down by one. -/
theorem advanced_within {c : Config} {b : Batch} {r : SchRegs} {x : Setpoint} (hrem : r.rem ≠ 1) :
    advanced c b x r = { r with rem := r.rem - 1 } :=
  if_neg hrem

/-- The last tick of a setpoint before the last one loads the next one. -/
theorem advanced_setpoint {c : Config} {b : Batch} {r : SchRegs} {x : Setpoint} (hrem : r.rem = 1)
    (hend : r.idx.toNat + 1 ≠ b.count) :
    advanced c b x r =
      { r with
        idx := BitVec.ofNat 16 (r.idx.toNat + 1), rem := playTicks x.duration, target := x.target } := by
  rw [advanced, if_pos hrem, playNext, if_neg hend, if_neg fun hpass => hend hpass.1]

/-- The last tick of a pass loads the first setpoint and charges the loop budget. -/
theorem advanced_pass {c : Config} {b : Batch} {r : SchRegs} {x : Setpoint} (hrem : r.rem = 1)
    (hend : r.idx.toNat + 1 = b.count) :
    advanced c b x r =
      { r with
        idx := 0, rem := playTicks x.duration, target := x.target, loops := loopsAfterPass c r.loops } := by
  rw [advanced, if_pos hrem, playNext, if_pos hend, loopsAfterPass]
  by_cases hinf : r.loops = c.loopInf
  · rw [if_pos hinf, if_neg fun hpass => hpass.2 hinf]
    rfl
  · rw [if_neg hinf, if_pos ⟨hend, hinf⟩]
    rfl

theorem loopsAfterPass_finite {c : Config} {loops : U16} (h : loops ≠ c.loopInf) :
    loopsAfterPass c loops = loops - 1 :=
  if_neg h

theorem playNext_lt {b : Batch} {i : Nat} (h : i < b.count) : playNext b i < b.count := by
  unfold playNext
  split <;> omega

/-- There is a setpoint after every play position. -/
theorem exists_playNext {b : Batch} {i : Nat} (h : i < b.count) : ∃ x, b.sp[playNext b i]? = some x :=
  ⟨_, List.getElem?_eq_getElem (playNext_lt h)⟩

/-- Step 8 completes with the registers `advanced` says while the play position is in the batch. -/
theorem tickAdvance_eq {c : Config} {b : Batch} {r : SchRegs} {x : Setpoint}
    (hi : r.idx.toNat < b.count) (hb : b.count < 2 ^ 16) (hx : b.sp[playNext b r.idx.toNat]? = some x) :
    tickAdvance c b r = .ok (advanced c b x r) := by
  have hidx : (r.idx + 1).toNat = r.idx.toNat + 1 := by
    rw [BitVec.toNat_add]
    exact Nat.mod_eq_of_lt (by simp; omega)
  have hlast : r.rem - 1 = 0 ↔ r.rem = 1 := sub_eq_zero
  simp only [tickAdvance, hlast, hidx]
  by_cases hrem : r.rem = 1
  · rw [if_pos hrem]
    by_cases hend : r.idx.toNat + 1 = b.count
    · rw [playNext, if_pos hend] at hx
      rw [if_pos hend, loadSetpoint_ok hx, advanced_pass hrem hend]
    · rw [playNext, if_neg hend] at hx
      rw [if_neg hend, loadSetpoint_ok hx, advanced_setpoint hrem hend, ← hidx, BitVec.ofNat_toNat,
        BitVec.setWidth_eq]
  · rw [if_neg hrem, advanced_within hrem]

/-! ### The statements on one operation of the scheduler (R110, R111, R116 to R123) -/

/-- Settles O10: the gate lapses the offer in BOOT, the tick's own test in RUN. -/
theorem disabledAgentOfferLapses : Obligations.DisabledAgentOfferLapses :=
  ⟨fun _ h hm => exec_agent_boot h hm rfl rfl, fun _ _ h hm => exec_agent_boot h hm rfl rfl,
    fun _ p h hp => exec_schTick_lapses h hp p⟩

/-- Settles O46: the second SCH.TIMER writes the value the first one left. -/
theorem timerAndCurrentPosition : Obligations.TimerAndCurrentPosition := fun s h =>
  ⟨⟨_, exec_schTimer h, rfl, exec_schTimer (s := s.timed) h⟩, exec_external h rfl rfl⟩

/-- Settles O47, by the size of the batch and then the room in the queue. -/
theorem enqueueOffers : Obligations.EnqueueOffers := fun _ _ h =>
  ⟨fun hsize => exec_schEnqueue h (enqueueBatch_oversize _ hsize),
    fun hsize hroom => exec_schEnqueue h (enqueueBatch_room hsize hroom),
    fun hsize hfull => exec_schEnqueue h (enqueueBatch_full hsize hfull)⟩

/-- Settles O48: step 4 leaves nothing current, so step 5 idles. -/
theorem tickIdles : Obligations.TickIdles := by
  refine ⟨exists_afterSlots, fun s p r h hp ha hempty => ?_⟩
  rw [exec_schTick h hp ha, State.prepared_nothing hempty, tickPlay_idle rfl]
  rfl

/-- Settles O49: step 6 frees the batch before anything is rendered. -/
theorem tickFreesExhausted : Obligations.TickFreesExhausted := by
  intro s p r b h hp ha hcur hsp hloops
  rw [exec_schTick h hp ha, State.prepared_batch hcur hsp, tickPlay_exhausted hcur hloops]
  rfl

/-- Settles O50: `tickRender_cases` gives step 7 and `tickAdvance_eq` step 8. -/
theorem tickRenders : Obligations.TickRenders := by
  intro s p r b next x rnd seeded moved d h hp ha hcur hloops hi hcount hnext hx hrnd hseeded hmoved hd
  have hsp : b.sp ≠ [] := List.ne_nil_of_length_pos (Nat.zero_lt_of_lt hi)
  rw [exec_schTick h hp ha, State.prepared_batch hcur hsp]
  obtain ⟨rnd', moved', d', hrnd', hmoved', hd', hrender⟩ := tickRender_cases { s with
      rnd := filterSample s.cfg p { s.rnd with sample := p }
      sch := { r with tickPending := false } }
  obtain rfl : rnd' = rnd := by rw [hrnd', hrnd, filterSample_sample]
  obtain rfl : moved' = moved := by rw [hmoved', hmoved, hseeded]; rfl
  obtain rfl : d' = d := hd'.trans hd.symm
  subst hnext
  rw [tickPlay_renders hcur hloops (r := advanced s.cfg b x (r.driven d')), hrender]
  · rfl
  · rw [hrender]
    exact tickAdvance_eq hi (hcount.trans_lt (ok_maxSp h.1.1).2) hx

end Sys2Proof.Machine

namespace Sys2Proof.Machine

/-! ### Sequences of ticks (R74) -/

/-- SCH.TIMER and SCH.TICK of a running block (R110, R111). -/
theorem timedTick_eq {s t : State} {p : F32} (h : s.running)
    (ht : exec (.schTick p) s.timed = .next t) : timedTicks [p] s = some t := by
  simp only [timedTicks, exec_schTimer h, ht]

/-- Ticks continue where the ticks before them ended. -/
theorem timedTicks_append {s t : State} {ps : List F32} (h : timedTicks ps s = some t)
    (qs : List F32) : timedTicks (ps ++ qs) s = timedTicks qs t := by
  induction ps generalizing s with
  | nil =>
    cases h
    rfl
  | cons p ps ih =>
    simp only [timedTicks, List.cons_append] at h ⊢
    split at h
    · split at h
      · exact ih h
      · cases h
      · cases h
    · cases h
    · cases h

theorem timedTicks_cons {s t : State} {p : F32} (h : timedTicks [p] s = some t) (ps : List F32) :
    timedTicks (p :: ps) s = timedTicks ps t :=
  timedTicks_append h ps

/-! ### With nothing to play every tick idles (R116) -/

/-- No batch is current, in the next slot or in the queue. -/
structure NothingToPlay (s : State) : Prop where
  running : s.running
  empty : s.sch.next = none ∧ s.sch.queue = []
  current : s.sch.cur = none

theorem NothingToPlay.timedTick {s : State} (h : NothingToPlay s) (p : F32) :
    ∃ t, timedTicks [p] s = some t ∧ NothingToPlay t ∧ t.events = s.events ++ [.drive 0] := by
  obtain ⟨hnext, hqueue⟩ := h.empty
  have htick := tickIdles.2 s.timed p _ h.running rfl
    ((AfterSlots.nothing hnext hqueue).withPending true)
    (fun b hb => nomatch h.current.symm.trans hb)
  exact ⟨_, timedTick_eq h.running htick, ⟨h.running, h.empty, rfl⟩, rfl⟩

/-- Every tick of a block with nothing to play emits DRIVE(0). -/
theorem NothingToPlay.timedTicks {s : State} (h : NothingToPlay s) (ps : List F32) :
    ∃ t, timedTicks ps s = some t ∧ t.sch.cur = none ∧
      t.events = s.events ++ ps.map fun _ => Event.drive 0 := by
  induction ps generalizing s with
  | nil => exact ⟨s, rfl, h.current, (List.append_nil _).symm⟩
  | cons p ps ih =>
    obtain ⟨t, ht, hrest, hevents⟩ := h.timedTick p
    obtain ⟨u, hu, hcur, hevents'⟩ := ih hrest
    refine ⟨u, (timedTicks_cons ht ps).trans hu, hcur, ?_⟩
    rw [hevents', hevents, List.append_assoc, List.singleton_append, List.map_cons]

/-! ### A tick that frees the current batch (R117) -/

theorem Playing.sp_ne_nil {b : Batch} {s : State} (h : Playing b s) : b.sp ≠ [] :=
  List.ne_nil_of_length_pos (Nat.zero_lt_of_lt h.position.1)

/-- The registers steps 2 and 3 leave while a batch plays: as they were. -/
theorem Playing.afterSlots {b : Batch} {s : State} (h : Playing b s) : AfterSlots s.sch s.sch :=
  .nothing h.alone.1 h.alone.2

/-- With its loop budget spent, the next tick frees the batch that played, without a DRIVE, and nothing is
left to play. -/
theorem Playing.timedTick_frees {b : Batch} {s : State} (h : Playing b s) (hl : s.sch.loops = 0)
    (p : F32) : ∃ t, Machine.timedTicks [p] s = some t ∧ NothingToPlay t ∧ t.events = s.events := by
  have htick := tickFreesExhausted s.timed p _ b h.running rfl
    (h.afterSlots.withPending true) h.current h.sp_ne_nil hl
  exact ⟨_, timedTick_eq h.running htick, ⟨h.running, h.alone, rfl⟩, rfl⟩

/-! ### A tick that renders (R114, R118 to R120) -/

/-- A tick from `s`, whose steps 2 and 3 leave the scheduler registers `r`, rendered batch `b` and ended in
`t`: one DRIVE, and the play position of `r` advanced. -/
structure Rendered (b : Batch) (s : State) (r : SchRegs) (t : State) : Prop where
  cfg : t.cfg = s.cfg
  playing : Playing b t
  events : ∃ d, t.events = s.events ++ [.drive d]
  advance : ∃ x d, b.sp[playNext b r.idx.toNat]? = some x ∧
    t.sch = advanced s.cfg b x (r.driven d)

/-- Step 8 leaves the batch current and alone, and the play position in it. -/
theorem Playing.of_advanced {b : Batch} {s t : State} {r : SchRegs} {x : Setpoint} {d : Byte}
    (h : Playing b { s with sch := r }) (hrun : t.running) (hcfg : t.cfg = s.cfg)
    (hsch : t.sch = advanced s.cfg b x (r.driven d)) : Playing b t := by
  obtain ⟨hi, hcount⟩ := h.position
  unfold advanced at hsch
  split at hsch <;> refine ⟨hrun, hsch ▸ h.alone, hsch ▸ h.current, ?_, hcfg ▸ hcount⟩
  · rw [hsch]
    exact (Nat.mod_le _ _).trans_lt (playNext_lt hi)
  · rw [hsch]
    exact hi

/-- A tick renders when steps 2 and 3 leave a batch to play with loop budget. -/
theorem timedTick_renders {b : Batch} {s : State} {r : SchRegs} (ha : AfterSlots s.sch r)
    (h : Playing b { s with sch := r }) (hl : r.loops ≠ 0) (p : F32) :
    ∃ t, timedTicks [p] s = some t ∧ Rendered b s r t := by
  have hrun : s.running := h.running
  obtain ⟨hi, hcount⟩ := h.position
  obtain ⟨x, hx⟩ := exists_playNext hi
  have htick := tickRenders s.timed p _ b _ x _ _ _ _ hrun rfl (ha.withPending true) h.current hl
    hi hcount rfl hx rfl rfl rfl rfl
  exact ⟨_, timedTick_eq hrun htick,
    ⟨rfl, h.of_advanced hrun rfl rfl, ⟨_, rfl⟩, ⟨x, _, hx, rfl⟩⟩⟩

/-! ### A run of ticks that render (R118 to R120) -/

/-- `Q n r` says that the next `n` ticks from the registers `r` have loop budget to render batch `b`, and
every such tick keeps it. -/
structure RenderInv (c : Config) (b : Batch) (Q : Nat → SchRegs → Prop) : Prop where
  loops : ∀ {n r}, Q (n + 1) r → r.loops ≠ 0
  step : ∀ {n r x d}, r.idx.toNat < b.count → b.sp[playNext b r.idx.toNat]? = some x → Q (n + 1) r →
    Q n (advanced c b x (r.driven d))

/-- The ticks an invariant of rendering ticks has budget for all render, one DRIVE each. -/
theorem RenderInv.timedTicks {b : Batch} {s : State} {r : SchRegs} {Q : Nat → SchRegs → Prop}
    (hQ : RenderInv s.cfg b Q) {ps : List F32} (hps : ps ≠ []) (ha : AfterSlots s.sch r)
    (h : Playing b { s with sch := r }) (hq : Q ps.length r) :
    ∃ t, timedTicks ps s = some t ∧ Playing b t ∧ Q 0 t.sch ∧
      ∃ ds : List Byte, ds.length = ps.length ∧ t.events = s.events ++ ds.map Event.drive := by
  induction ps generalizing s r with
  | nil => exact absurd rfl hps
  | cons p ps ih =>
    obtain ⟨t, ht, hcfg, hplay, ⟨d, hevents⟩, x, _, hx, hsch⟩ := timedTick_renders ha h (hQ.loops hq) p
    have hq' : Q ps.length t.sch := hsch ▸ hQ.step h.position.1 hx hq
    rw [timedTicks_cons ht]
    cases ps with
    | nil => exact ⟨t, rfl, hplay, hq', [d], rfl, hevents⟩
    | cons p' ps =>
      obtain ⟨u, hu, hplay', hq'', ds, hlength, hevents'⟩ :=
        ih (hcfg ▸ hQ) (List.cons_ne_nil p' ps) hplay.afterSlots hplay hq'
      refine ⟨u, hu, hplay', hq'', d :: ds, congrArg (· + 1) hlength, ?_⟩
      rw [hevents', hevents, List.append_assoc, List.singleton_append, List.map_cons]

/-! ### Ticks left to render (R119, R120, R124) -/

/-- The ticks the setpoints of a batch from index `i` on take in one pass (R120). -/
def ticksFrom (b : Batch) (i : Nat) : Nat :=
  ((b.sp.drop i).map fun x => (playTicks x.duration).toNat).sum

theorem ticksFrom_zero (b : Batch) : ticksFrom b 0 = passTicks b := rfl

theorem ticksFrom_count (b : Batch) : ticksFrom b b.count = 0 := by
  rw [ticksFrom, Batch.count, List.drop_length, List.map_nil, List.sum_nil]

theorem ticksFrom_eq {b : Batch} {i : Nat} {x : Setpoint} (hx : b.sp[i]? = some x) :
    ticksFrom b i = (playTicks x.duration).toNat + ticksFrom b (i + 1) := by
  obtain ⟨hi, rfl⟩ := List.getElem?_eq_some_iff.mp hx
  rw [ticksFrom, List.drop_eq_getElem_cons hi, List.map_cons, List.sum_cons, ticksFrom]

/-- The ticks that batch `b` still renders from the play position of the registers `r`, with a finite loop
budget: what is left of the setpoint and of the pass, and the passes after it (R119, R120). -/
def ticksLeft (b : Batch) (r : SchRegs) : Nat :=
  if r.loops = 0 then 0
  else r.rem.toNat + ticksFrom b (r.idx.toNat + 1) + (r.loops.toNat - 1) * passTicks b

/-- The play position has `n` ticks left of a finite loop budget. -/
structure TicksLeft (c : Config) (b : Batch) (n : Nat) (r : SchRegs) : Prop where
  finite : r.loops.toNat < c.loopInf.toNat
  rem : r.rem ≠ 0
  left : ticksLeft b r = n

theorem TicksLeft.loops_ne_zero {c : Config} {b : Batch} {n : Nat} {r : SchRegs}
    (h : TicksLeft c b (n + 1) r) : r.loops ≠ 0 := fun hl =>
  nomatch (if_pos hl).symm.trans h.left

/-- With no tick left, the loop budget is spent. -/
theorem TicksLeft.loops_eq_zero {c : Config} {b : Batch} {r : SchRegs} (h : TicksLeft c b 0 r) :
    r.loops = 0 := by
  by_contra hl
  have hleft := h.left
  have hpos := BitVec.toNat_pos_of_ne_zero h.rem
  rw [ticksLeft, if_neg hl] at hleft
  omega

theorem toNat_sub_one {v : U16} (h : v ≠ 0) : (v - 1).toNat = v.toNat - 1 :=
  BitVec.toNat_sub_of_le (BitVec.toNat_pos_of_ne_zero h)

/-- One tick of the setpoint is taken. -/
theorem TicksLeft.within {c : Config} {b : Batch} {n : Nat} {r : SchRegs}
    (h : TicksLeft c b (n + 1) r) (hrem : r.rem ≠ 1) :
    TicksLeft c b n { r with rem := r.rem - 1 } := by
  refine ⟨h.finite, sub_ne_zero.mpr hrem, ?_⟩
  have hleft := h.left
  have hpos := BitVec.toNat_pos_of_ne_zero h.rem
  simp only [ticksLeft, if_neg h.loops_ne_zero, toNat_sub_one h.rem] at hleft ⊢
  omega

/-- The setpoint was over, and the ticks of the next one are those of the pass from there on. -/
theorem TicksLeft.nextSetpoint {c : Config} {b : Batch} {n : Nat} {r : SchRegs} {x : Setpoint}
    (h : TicksLeft c b (n + 1) r) (hrem : r.rem = 1) (hi : r.idx.toNat + 1 < 2 ^ 16)
    (hx : b.sp[r.idx.toNat + 1]? = some x) :
    TicksLeft c b n
      { r with
        idx := BitVec.ofNat 16 (r.idx.toNat + 1), rem := playTicks x.duration, target := x.target } := by
  refine ⟨h.finite, playTicks_ne_zero _, ?_⟩
  have hleft := h.left
  have hidx : (BitVec.ofNat 16 (r.idx.toNat + 1)).toNat = r.idx.toNat + 1 := Nat.mod_eq_of_lt hi
  have hone : (1 : U16).toNat = 1 := rfl
  simp only [ticksLeft, if_neg h.loops_ne_zero, hrem, hone, hidx, ticksFrom_eq hx] at hleft ⊢
  omega

/-- The pass was over: the next one has all its ticks, or the loop budget is spent and no tick counts. -/
theorem TicksLeft.nextPass {c : Config} {b : Batch} {n : Nat} {r : SchRegs} {x : Setpoint}
    (h : TicksLeft c b (n + 1) r) (hrem : r.rem = 1) (hend : r.idx.toNat + 1 = b.count)
    (hx : b.sp[0]? = some x) :
    TicksLeft c b n
      { r with idx := 0, rem := playTicks x.duration, target := x.target, loops := r.loops - 1 } := by
  have hsub := toNat_sub_one h.loops_ne_zero
  refine ⟨hsub.trans_lt ((Nat.sub_le _ _).trans_lt h.finite), playTicks_ne_zero _, ?_⟩
  have hleft := h.left
  have hpass := (ticksFrom_zero b).symm.trans (ticksFrom_eq hx)
  have hone : (1 : U16).toNat = 1 := rfl
  simp only [ticksLeft, if_neg h.loops_ne_zero, hrem, hone, hend, ticksFrom_count] at hleft
  by_cases hlast : r.loops = 1
  · rw [ticksLeft, if_pos (sub_eq_zero.mpr hlast)]
    rw [hlast, hone] at hleft
    omega
  · have hmore : r.loops - 1 ≠ 0 := sub_ne_zero.mpr hlast
    have hpos : 0 < r.loops.toNat - 1 := hsub ▸ BitVec.toNat_pos_of_ne_zero hmore
    have hpasses : (r.loops.toNat - 1) * passTicks b =
        (r.loops.toNat - 1 - 1) * passTicks b + passTicks b := by
      rw [← Nat.succ_mul, Nat.succ_eq_add_one, Nat.sub_add_cancel hpos]
    have hstart : (0 : U16).toNat + 1 = 0 + 1 := rfl
    simp only [ticksLeft, if_neg hmore, hsub, hstart]
    omega

/-- Every rendering tick takes one of the ticks left. -/
theorem TicksLeft.advanced {c : Config} {b : Batch} {n : Nat} {r : SchRegs} {x : Setpoint}
    (h : TicksLeft c b (n + 1) r) (hb : b.count < 2 ^ 16) (hi : r.idx.toNat < b.count)
    (hx : b.sp[playNext b r.idx.toNat]? = some x) : TicksLeft c b n (advanced c b x r) := by
  have hfinite : r.loops ≠ c.loopInf := fun hl => (hl ▸ h.finite).false
  by_cases hrem : r.rem = 1
  · by_cases hend : r.idx.toNat + 1 = b.count
    · rw [playNext, if_pos hend] at hx
      rw [advanced_pass hrem hend, loopsAfterPass_finite hfinite]
      exact h.nextPass hrem hend hx
    · rw [playNext, if_neg hend] at hx
      rw [advanced_setpoint hrem hend]
      exact h.nextSetpoint hrem (by omega) hx
  · rw [advanced_within hrem]
    exact h.within hrem

/-- SCH.tick_pending, SCH.render_active and SCH.drive do not count. -/
theorem TicksLeft.driven {c : Config} {b : Batch} {n : Nat} {r : SchRegs} (h : TicksLeft c b n r)
    (d : Byte) : TicksLeft c b n (r.driven d) :=
  ⟨h.finite, h.rem, h.left⟩

/-- The ticks left are ticks that render, and `m` of them may stay over. -/
theorem TicksLeft.renderInv {c : Config} {b : Batch} (hb : b.count < 2 ^ 16) (m : Nat) :
    RenderInv c b fun n => TicksLeft c b (m + n) where
  loops h := h.loops_ne_zero
  step hi hx h := (h.driven _).advanced hb hi hx

/-! ### Activation (R113, R114) -/

/-- The registers after steps 2 and 3 of the tick that makes batch `b`, with first setpoint `x`, current. -/
def activated (b : Batch) (x : Setpoint) (r : SchRegs) : SchRegs :=
  { r with
    queue := [], next := none, cur := some b, loops := b.loop, idx := 0
    rem := playTicks x.duration, target := x.target }

/-- The next tick makes the batch current, and its first setpoint is loaded. -/
theorem AboutToPlay.activates {b : Batch} {s : State} (h : AboutToPlay b s) :
    ∃ x, b.sp[0]? = some x ∧ AfterSlots s.sch (activated b x s.sch) ∧
      Playing b { s with sch := activated b x s.sch } := by
  obtain ⟨hsp, hcount⟩ := h.setpoints
  have hpos : 0 < b.sp.length := List.length_pos_iff.mpr hsp
  have hx : b.sp[0]? = some b.sp[0] := List.getElem?_eq_getElem hpos
  exact ⟨_, hx, .activates b [] _ h.slot h.delay hx,
    h.running, ⟨rfl, rfl⟩, rfl, hpos, hcount⟩

/-- A batch with a finite loop budget has all its play time left when it is activated. -/
theorem TicksLeft.activated {c : Config} {b : Batch} {x : Setpoint} (hx : b.sp[0]? = some x)
    (hl : b.loop ≠ 0) (hfinite : b.loop.toNat < c.loopInf.toNat) (r : SchRegs) :
    TicksLeft c b (b.loop.toNat * passTicks b) (activated b x r) := by
  refine ⟨hfinite, playTicks_ne_zero _, ?_⟩
  have hpos : 0 < b.loop.toNat := BitVec.toNat_pos_of_ne_zero hl
  calc ticksLeft b (Machine.activated b x r)
      = (playTicks x.duration).toNat + ticksFrom b 1 + (b.loop.toNat - 1) * passTicks b := if_neg hl
    _ = passTicks b + (b.loop.toNat - 1) * passTicks b := by rw [← ticksFrom_zero, ticksFrom_eq hx]
    _ = b.loop.toNat * passTicks b := by
      rw [Nat.add_comm, ← Nat.succ_mul, Nat.succ_eq_add_one, Nat.sub_add_cancel hpos]

theorem passTicks_pos {b : Batch} {x : Setpoint} (hx : b.sp[0]? = some x) : 0 < passTicks b := by
  rw [← ticksFrom_zero, ticksFrom_eq hx]
  exact Nat.add_pos_left (BitVec.toNat_pos_of_ne_zero (playTicks_ne_zero _)) _

/-! ### The statements on sequences of ticks (R124) -/

/-- Settles O51: `TicksLeft` counts down from the whole play time, so the loop budget lasts for every tick of it
and is spent after the last. -/
theorem finiteBatchPlayTime : Obligations.FiniteBatchPlayTime := by
  intro b s ps h hl hfinite hlength
  obtain ⟨x, hx, hslots, hplay⟩ := h.activates
  have hcount : b.count < 2 ^ 16 := h.setpoints.2.trans_lt (ok_maxSp h.running.1.1).2
  have hleft := TicksLeft.activated hx hl hfinite s.sch
  rw [← hlength] at hleft
  have hps : ps ≠ [] := List.ne_nil_of_length_pos
    (hlength ▸ Nat.mul_pos (BitVec.toNat_pos_of_ne_zero hl) (passTicks_pos hx))
  obtain ⟨t, ht, hplayed, hspent, hevents⟩ :=
    (TicksLeft.renderInv hcount 0).timedTicks hps hslots hplay ((Nat.zero_add _).symm ▸ hleft)
  refine ⟨t, ht, hplayed.current, hspent.loops_eq_zero, hevents, fun k hk hklen => ?_, fun p qs => ?_⟩
  · have htake : (ps.take k).length = k := List.length_take_of_le hklen.le
    obtain ⟨m, hm⟩ := Nat.exists_eq_add_of_lt hklen
    obtain ⟨u, hu, hplaying, hmore, -⟩ :=
      (TicksLeft.renderInv hcount (m + 1)).timedTicks (ps := ps.take k)
        (List.ne_nil_of_length_pos (htake.symm ▸ hk)) hslots hplay
        ((show m + 1 + (ps.take k).length = ps.length by omega) ▸ hleft)
    exact ⟨u, hu, hplaying.current, hmore.loops_ne_zero⟩
  · obtain ⟨u, hu, hrest, hfreed⟩ := hplayed.timedTick_frees hspent.loops_eq_zero p
    obtain ⟨v, hv, hcur, hidle⟩ := hrest.timedTicks qs
    exact ⟨v, (timedTicks_cons hu qs).trans hv, hcur, hfreed ▸ hidle⟩

/-- The infinite loop budget is never used up (R119). -/
theorem infiniteLoops_renderInv {c : Config} (b : Batch) (h : c.loopInf ≠ 0) :
    RenderInv c b fun _ r => r.loops = c.loopInf where
  loops hr := hr.symm ▸ h
  step {_ r x d} _ _ hr := by
    unfold advanced
    split
    · exact (if_neg fun hpass => hpass.2 hr).trans hr
    · exact hr

/-- Settles O52: from activation or from a play position, the ticks render by `infiniteLoops_renderInv`. -/
theorem infiniteBatchNeverEnds : Obligations.InfiniteBatchNeverEnds := by
  intro b s ps hinf h
  have hkeeps := infiniteLoops_renderInv (c := s.cfg) b hinf
  obtain ⟨habout, hloop, hps⟩ | ⟨hplay, hloops⟩ := h
  · obtain ⟨x, -, hslots, hplay⟩ := habout.activates
    obtain ⟨t, ht, hplaying, hloops, hevents⟩ := hkeeps.timedTicks hps hslots hplay hloop
    exact ⟨t, ht, hplaying, hloops, hevents⟩
  · by_cases hps : ps = []
    · subst hps
      exact ⟨s, rfl, hplay, hloops, [], rfl, (List.append_nil _).symm⟩
    · obtain ⟨t, ht, hplaying, hloops', hevents⟩ :=
        hkeeps.timedTicks hps hplay.afterSlots hplay hloops
      exact ⟨t, ht, hplaying, hloops', hevents⟩

/-- SCH.STOP puts the stop batch where the next tick takes it (R122). -/
theorem aboutToPlay_stopMotion {s : State} (h : s.running) : AboutToPlay stopBatch (stopMotion s) where
  running := h
  slot := .inl ⟨rfl, rfl⟩
  delay := rfl
  setpoints := ⟨List.cons_ne_nil _ _, (ok_maxSp h.1.1).1⟩

/-- Settles O53: the first tick uses up the one pass of the stop batch, whose setpoint is raw target 0. -/
theorem stopEndsMotion : Obligations.StopEndsMotion := by
  intro s p1 p2 ps h hinf
  obtain ⟨x, hx, hslots, hplay⟩ := (aboutToPlay_stopMotion h).activates
  obtain ⟨t1, ht1, -, hplay1, ⟨d, hevents1⟩, y, d', hy, hsch⟩ :=
    timedTick_renders hslots hplay (show (1 : U16) ≠ 0 by decide) p1
  obtain rfl : ⟨0, 0⟩ = x := Option.some.inj hx
  obtain rfl : ⟨0, 0⟩ = y := Option.some.inj hy
  have hpassed := hsch.trans (advanced_pass rfl rfl)
  have hfirst : t1.sch.target = 0 ∧ t1.sch.loops = 0 := by
    rw [hpassed]
    exact ⟨rfl, (loopsAfterPass_finite hinf.symm).trans (BitVec.sub_self 1)⟩
  obtain ⟨t2, ht2, hrest, hevents2⟩ := hplay1.timedTick_frees hfirst.2 p2
  obtain ⟨t3, ht3, -, hevents3⟩ := hrest.timedTicks ps
  exact ⟨t1, t2, t3, d, ht1, hplay1.current, hfirst.1, hevents1, ht2, hrest.current, hevents2, ht3,
    hevents3⟩

end Sys2Proof.Machine

namespace Sys2Proof.Machine

/-! ### Coefficients, setpoint and update (R125 to R127)

`setCoefficients` and `setSetpoint` are functions of the model, so the statements on the three operations are
settled under `Pid`. -/

/-- PID.SETCOEF runs its body in RUN with either strategy, as an operation on the way of the answer to
set-coefficients (R130; log 11). -/
theorem exec_pidSetcoef {s t : State} {kp ki kd : F32} {status : U16} (h : s.inRun)
    (ht : setCoefficients kp ki kd s = (t, status)) :
    exec (.pidSetcoef kp ki kd) s = .next (t.setRes (resI16 status)) := by
  have hrun : exec (.pidSetcoef kp ki kd) s = commit s (bodyOf (.pidSetcoef kp ki kd) s) :=
    exec_answer h rfl rfl rfl nofun
  rw [hrun, bodyOf, ht, commit_ok]

/-- Settles O54, by the strategy. -/
theorem Pid.setCoefficients : Obligations.SetCoefficients := fun _ kp ki kd h =>
  ⟨fun hpid => exec_pidSetcoef h (setCoefficients_pid kp ki kd hpid),
    fun hpulse => exec_pidSetcoef h (setCoefficients_pulse kp ki kd hpulse)⟩

/-- Settles O55: the setpoint and the step the statement names are `guardedSetpoint` and `setpointStep`. -/
theorem Pid.setSetpoint : Obligations.SetSetpoint := by
  rintro s t _ _ _ h rfl rfl rfl
  exact exec_internal h

/-- Settles O56: the integrator and the output the statement names are `pidIntegrator` and `pidOutput`. -/
theorem Pid.updateController : Obligations.UpdateController := by
  rintro s pos _ _ _ _ _ h rfl rfl rfl rfl rfl
  exact exec_internal h

/-! ### The magnitude of a binary32 value in units (R15) -/

theorem F32.natAbs_key (a : F32) : (F32.key a).natAbs = F32.magnitude a := by
  unfold F32.key
  split <;> omega

theorem F32.natAbs_signedUnits (a : F32) : (F32.signedUnits a).natAbs = F32.units a := by
  unfold F32.signedUnits
  split <;> omega

/-- The magnitude of a value between `-m` and `m`, in the order of binary32 values. -/
theorem F32.magnitude_le_key_of_between {x m : F32} (hlo : F32.le (F32.neg m) x = true)
    (hhi : F32.le x m = true) : F32.magnitude x ≤ F32.key m := by
  obtain ⟨-, -, hlo⟩ := (F32.le_iff _ _).mp hlo
  obtain ⟨-, -, hhi⟩ := (F32.le_iff _ _).mp hhi
  rw [F32.key_neg] at hlo
  rw [← F32.natAbs_key]
  omega

/-- A significand has 24 bits, and the exponent field shifts it. -/
theorem F32.units_le_of_exponent_le {a : F32} {k : Nat} (h : F32.exponent a ≤ k + 1) :
    F32.units a ≤ (2 ^ 24 - 1) * 2 ^ k := by
  have hfrac : F32.fraction a < 2 ^ 23 := Nat.mod_lt _ (by decide)
  unfold F32.units
  split
  · have hsig : F32.fraction a ≤ 2 ^ 24 - 1 := by omega
    exact hsig.trans (Nat.le_mul_of_pos_right _ (by positivity))
  · exact Nat.mul_le_mul (by omega) (Nat.pow_le_pow_right (by decide) (by omega))

/-! ### A sum that does not round to an infinity (R15, R126) -/

/-- A quotient nearer to `n` than to `n + 1`, or below `n`, rounds to `n` at most. -/
theorem F32.roundQuotient_le {num den n : Nat} (h : 2 * num < (2 * n + 1) * den) :
    F32.roundQuotient num den ≤ n := by
  have hbound : 2 * num < 2 * (den * n) + den := h.trans_eq (by ring)
  have hfloor : num / den ≤ n := by
    refine Nat.lt_succ_iff.mp (Nat.div_lt_of_lt_mul ?_)
    rw [Nat.mul_succ]
    omega
  unfold F32.roundQuotient
  dsimp only
  split
  · rename_i hup
    refine Nat.lt_of_le_of_ne hfloor fun heq => ?_
    have hdiv := Nat.div_add_mod num den
    rw [heq] at hdiv
    omega
  · exact hfloor

/-- Scaled, a magnitude is below 2^24: it has a significand's 24 bits before it is rounded. -/
theorem F32.lt_scaleOf (n : Nat) : n < 2 ^ 24 * 2 ^ F32.scaleOf n := by
  rw [← pow_add]
  exact Nat.lt_log2_self.trans_le
    (Nat.pow_le_pow_right (by decide) (by unfold F32.scaleOf; omega))

/-- The scale is the least with that property. -/
theorem F32.scaleOf_le {n k : Nat} (h : n < 2 ^ 24 * 2 ^ k) : F32.scaleOf n ≤ k := by
  unfold F32.scaleOf
  rcases eq_or_ne n 0 with rfl | hn
  · simp
  · rw [← pow_add] at h
    have hlog := (Nat.log2_lt hn).mpr h
    omega

/-- The largest finite value is `(2^24 - 1) * 2^253` units; a magnitude less than half a unit in its last
place above it rounds to a finite value. -/
theorem F32.finite_round {s : Bool} {n : Nat} (h : n < (2 ^ 25 - 1) * 2 ^ 252) :
    F32.finite (F32.round s n 1) = true := by
  have hfield : F32.scaleOf n * 2 ^ 23 + F32.roundQuotient n (2 ^ F32.scaleOf n) < 255 * 2 ^ 23 := by
    have hscale : F32.scaleOf n ≤ 253 := F32.scaleOf_le (by omega)
    rcases hscale.lt_or_eq with hlow | htop
    · have hsize := F32.lt_scaleOf n
      have hround : F32.roundQuotient n (2 ^ F32.scaleOf n) ≤ 2 ^ 24 :=
        F32.roundQuotient_le (by omega)
      omega
    · rw [htop]
      have hround : F32.roundQuotient n (2 ^ 253) ≤ 2 ^ 24 - 1 := F32.roundQuotient_le (by omega)
      omega
  unfold F32.round
  dsimp only
  rw [Nat.div_one, one_mul, min_eq_left hfield.le, F32.finite_iff,
    F32.magnitude_ofMagnitude _ (by omega)]
  exact hfield

theorem F32.finite_zero (s : Bool) : F32.finite (F32.zero s) = true := by
  cases s <;> decide

theorem F32.not_isInf_of_finite {a : F32} (h : F32.finite a = true) : F32.isInf a = false := by
  unfold F32.finite at h
  unfold F32.isInf
  rw [bne_iff_ne] at h
  simp [h]

/-- The sum of two finite values is theirs, rounded once. -/
theorem F32.add_of_finite {a b : F32} (ha : F32.finite a = true) (hb : F32.finite b = true) :
    F32.add a b = F32.addFinite a b := by
  simp only [F32.add, F32.not_isNaN_of_finite ha, F32.not_isNaN_of_finite hb,
    F32.not_isInf_of_finite ha, F32.not_isInf_of_finite hb, Bool.or_self, Bool.false_eq_true, if_false]

/-- A finite value and one below 2^103 in magnitude, half a unit in the last place of the largest finite
value, have a finite sum (R126). -/
theorem F32.finite_add {a b : F32} (ha : F32.finite a = true) (hb : F32.magnitude b < 0x73000000) :
    F32.finite (F32.add a b) = true := by
  have hfin : F32.finite b = true := (F32.finite_iff b).mpr (by omega)
  have ha' := F32.units_le_of_exponent_le (a := a) (k := 253)
    (by have := (F32.finite_iff a).mp ha; unfold F32.exponent; omega)
  have hb' := F32.units_le_of_exponent_le (a := b) (k := 228) (by unfold F32.exponent; omega)
  have hsum : (F32.signedUnits a + F32.signedUnits b).natAbs < (2 ^ 25 - 1) * 2 ^ 252 := by
    have hle := Int.natAbs_add_le (F32.signedUnits a) (F32.signedUnits b)
    rw [F32.natAbs_signedUnits, F32.natAbs_signedUnits] at hle
    omega
  rw [F32.add_of_finite ha hfin, F32.addFinite]
  split
  · exact F32.finite_zero _
  · exact F32.finite_round hsum

/-! ### What the guards bound (R126 to R128) -/

/-- A value in the drive range is finite, since DRIVE_MAX is at most 127.0. -/
theorem inDriveRange.finite {c : Config} (hc : c.ok = true) {x : F32} (h : inDriveRange c x) :
    F32.finite x = true :=
  (F32.finite_iff x).mpr ((h.magnitude_le hc).trans_lt (by decide))

/-- MAX_STEP is above 0 (R10). -/
theorem ok_maxStep {c : Config} (h : c.ok = true) : F32.gt c.maxStep 0 = true := by
  simp only [Config.ok, Config.floatsOk, Bool.and_eq_true] at h
  tauto

theorem F32.le_of_gt {a b : F32} (h : F32.gt b a = true) : F32.le a b = true := by
  obtain ⟨hb, ha, hkey⟩ := (F32.gt_iff b a).mp h
  exact (F32.le_iff a b).mpr ⟨ha, hb, hkey.le⟩

theorem finite_guardedSetpoint (sp : F32) : F32.finite (guardedSetpoint sp) = true := by
  unfold guardedSetpoint
  split
  · assumption
  · decide

theorem guardedSetpoint_of_finite {sp : F32} (h : F32.finite sp = true) : guardedSetpoint sp = sp :=
  if_pos h

/-- The step is at most MAX_STEP either way, whatever the target is: a NaN step is 0 (R126). -/
theorem setpointStep_between {c : Config} (h : c.ok = true) (t sp : F32) :
    F32.le (F32.neg c.maxStep) (setpointStep c t sp) = true ∧
      F32.le (setpointStep c t sp) c.maxStep = true := by
  refine F32.clamp_between ?_ (F32.neg_le_self (F32.le_of_gt (ok_maxStep h)))
  split
  · decide
  · exact Bool.not_eq_true _ ▸ ‹_›

/-- The accepted setpoint is finite, a NaN or infinity before it included (R126). -/
theorem finite_acceptedSetpoint {c : Config} (h : c.ok = true)
    (hstep : F32.lt c.maxStep 0x73000000 = true) (t sp : F32) :
    F32.finite (acceptedSetpoint c t sp) = true := by
  obtain ⟨hlo, hhi⟩ := setpointStep_between h t (guardedSetpoint sp)
  obtain ⟨-, -, hmax⟩ := (F32.lt_iff _ _).mp hstep
  rw [show F32.key 0x73000000 = 0x73000000 by decide] at hmax
  exact F32.finite_add (finite_guardedSetpoint sp)
    (Int.ofNat_lt.mp ((F32.magnitude_le_key_of_between hlo hhi).trans_lt hmax))

/-- Settles O57: the guard runs before the clamp, and the clamp's bounds are finite; a step below half a unit
in the last place of the largest value keeps the setpoint's sum finite. -/
theorem pidStaysBounded : Obligations.PidStaysBounded := by
  intro c r pos t hc
  have hinteg : inDriveRange c (pidAfterUpdate c pos r).integ := guardedDrive_inDriveRange hc _
  have hout : inDriveRange c (pidOutput c pos r) := guardedDrive_inDriveRange hc _
  refine ⟨⟨hinteg, hinteg.finite hc⟩, ⟨hout, hout.finite hc⟩,
    fun hstep => finite_acceptedSetpoint hc hstep t r.sp, fun hsp => ?_⟩
  obtain ⟨hlo, hhi⟩ := setpointStep_between hc t r.sp
  refine ⟨setpointStep c t r.sp, hlo, hhi, ?_⟩
  rw [setSetpoint, acceptedSetpoint, guardedSetpoint_of_finite hsp]

end Sys2Proof.Machine

namespace Sys2Proof.Machine

/-! ### The angle of a raw target (R135, R137 item 1) -/

/-- A rounded value has the sign it was given: it lies on that side of zero, an infinity at most. -/
theorem F32.sign_round (s : Bool) (num den : Nat) : F32.sign (F32.round s num den) = s :=
  F32.sign_ofMagnitude s ((min_le_right _ _).trans_lt (by decide))

/-- Rounding gives no NaN: past the largest finite value it stops at an infinity. -/
theorem F32.not_isNaN_round (s : Bool) (num den : Nat) : F32.isNaN (F32.round s num den) = false := by
  rw [← Bool.not_eq_true, F32.isNaN_iff, F32.round,
    F32.magnitude_ofMagnitude s ((min_le_right _ _).trans_lt (by decide)), not_lt]
  exact min_le_right _ _

theorem F32.key_zero : F32.key 0 = 0 := by decide

/-- What is not a NaN and has no sign bit is not below 0. -/
theorem F32.zero_le_of_sign {a : F32} (hnan : F32.isNaN a = false) (hsign : F32.sign a = false) :
    F32.le 0 a = true := by
  refine (F32.le_iff 0 a).mpr ⟨by decide, hnan, ?_⟩
  rw [F32.key_zero, F32.key, hsign]
  exact Int.natCast_nonneg _

theorem F32.sign_of_gt_zero {a : F32} (h : F32.gt a 0 = true) : F32.sign a = false := by
  obtain ⟨-, -, hkey⟩ := (F32.gt_iff a 0).mp h
  rw [F32.key_zero, F32.key] at hkey
  by_contra hsign
  rw [if_pos (Bool.not_eq_false _ ▸ hsign)] at hkey
  omega

/-- Every u16 has a finite binary32 value (R15). -/
theorem F32.finite_ofNat {n : Nat} (h : n < 2 ^ 16) : F32.finite (F32.ofNat n) = true :=
  F32.finite_round (by omega)

/-- The product of two finite values is theirs, rounded once. -/
theorem F32.mul_of_finite {a b : F32} (ha : F32.finite a = true) (hb : F32.finite b = true) :
    F32.mul a b =
      F32.round (F32.sign a != F32.sign b) (F32.units a * F32.units b) (2 ^ 149) := by
  simp only [F32.mul, F32.not_isNaN_of_finite ha, F32.not_isNaN_of_finite hb,
    F32.not_isInf_of_finite ha, F32.not_isInf_of_finite hb, Bool.or_self, Bool.false_eq_true, if_false]

/-- RAW_SCALE is above 0 (R10). -/
theorem ok_rawScale {c : Config} (h : c.ok = true) : F32.gt c.rawScale 0 = true := by
  simp only [Config.ok, Config.floatsOk, Bool.and_eq_true] at h
  tauto

/-- A scaled raw target is not below 0: it is the rounded product of two values without a sign bit. -/
theorem zero_le_scaledTarget {c : Config} (hc : c.ok = true) (hfin : F32.finite c.rawScale = true)
    (raw : U16) : F32.le 0 (F32.mul (F32.ofNat raw.toNat) c.rawScale) = true := by
  rw [F32.mul_of_finite (F32.finite_ofNat raw.isLt) hfin]
  refine F32.zero_le_of_sign (F32.not_isNaN_round ..) ?_
  rw [F32.sign_round, F32.ofNat, F32.sign_round, F32.sign_of_gt_zero (ok_rawScale hc)]
  rfl

/-- The clamp from above keeps a value that is not below 0 between 0 and a bound that is not (R135). -/
theorem F32.upperClamp_between {x hi : F32} (hx : F32.le 0 x = true) (hhi : F32.le 0 hi = true) :
    F32.le 0 (if F32.gt x hi then hi else x) = true ∧
      F32.le (if F32.gt x hi then hi else x) hi = true := by
  obtain ⟨-, hxnan, -⟩ := (F32.le_iff 0 x).mp hx
  obtain ⟨-, hhinan, -⟩ := (F32.le_iff 0 hi).mp hhi
  split
  · exact ⟨hhi, (F32.le_iff hi hi).mpr ⟨hhinan, hhinan, le_rfl⟩⟩
  · next hgt =>
    rw [F32.gt_iff] at hgt
    exact ⟨hx, (F32.le_iff x hi).mpr ⟨hxnan, hhinan, not_lt.mp fun h => hgt ⟨hxnan, hhinan, h⟩⟩⟩

theorem rawAngle_between {c : Config} (hc : c.ok = true) (hfin : F32.finite c.rawScale = true)
    (hcal : F32.le 0 c.calUpper = true) (raw : U16) :
    F32.le 0 (rawAngle c raw) = true ∧ F32.le (rawAngle c raw) c.calUpper = true :=
  F32.upperClamp_between (zero_le_scaledTarget hc hfin raw) hcal

/-- The truncated output of PID.UPDATE is an integer in -127 .. 127 (R16, R128; R137 item 2). -/
theorem truncI8_pidOutput_between {c : Config} (hc : c.ok = true) (pos : F32) (p : PidRegs) :
    -127 ≤ (F32.truncI8 (pidOutput c pos p)).toInt ∧ (F32.truncI8 (pidOutput c pos p)).toInt ≤ 127 :=
  ⟨inDriveRange.truncI8_ge hc (guardedDrive_inDriveRange hc _), Int.le_of_lt_add_one BitVec.toInt_lt⟩

/-- Settles O60: the angle the statement names is `rawAngle`, and the moved registers are those that
`setSetpoint` leaves. -/
theorem computeDrive : Obligations.ComputeDrive := by
  rintro s raw _ _ h rfl rfl
  have ⟨⟨⟨hc, _⟩, _⟩, _⟩ := h
  exact ⟨⟨_, rfl, exec_internal h, truncI8_pidOutput_between hc s.rnd.pos _⟩,
    fun hfin hcal => rawAngle_between hc hfin hcal raw⟩

/-! ### The noise filter (R132) and the other phases (R133, R134, R136) -/

theorem filterTakes_iff (c : Config) (p : F32) (r : RndRegs) :
    filterTakes c p r = true ↔
      r.posValid = false ∨ F32.le (F32.abs (F32.sub p r.pos)) c.noise = false := by
  simp [filterTakes]

theorem filterSample_takes {c : Config} {p : F32} {r : RndRegs} (h : filterTakes c p r = true) :
    filterSample c p r = { r with pos := p, posValid := true } :=
  if_pos h

theorem filterSample_rejects {c : Config} {p : F32} {r : RndRegs} (h : filterTakes c p r = false) :
    filterSample c p r = r := by
  rw [filterSample, h]
  rfl

/-- A sample taken is the cached position from then on, so taking it again writes nothing new; a sample
rejected leaves the registers that reject it. -/
theorem filterSample_idem (c : Config) (p : F32) (r : RndRegs) :
    filterSample c p (filterSample c p r) = filterSample c p r := by
  cases h : filterTakes c p r with
  | true =>
    rw [filterSample_takes h]
    unfold filterSample
    split <;> rfl
  | false => rw [filterSample_rejects h, filterSample_rejects h]

theorem exec_rndFilter {s : State} (h : s.internalPort) (p : F32) :
    exec (.rndFilter p) s = .next { s with rnd := filterSample s.cfg p s.rnd } :=
  exec_internal h

/-- Settles O58, by whether the filter takes the sample. -/
theorem filterTakesSample : Obligations.FilterTakesSample := by
  intro s p h
  refine ⟨fun htakes => ?_, fun hvalid hnear => ?_, fun t ht => ?_⟩
  · rw [exec_rndFilter h, filterSample_takes ((filterTakes_iff ..).mpr htakes)]
  · have hrejects : filterTakes s.cfg p s.rnd = false := by
      simp [← Bool.not_eq_true, filterTakes_iff, hvalid, hnear]
    rw [exec_rndFilter h, filterSample_rejects hrejects]
  · rw [exec_rndFilter h] at ht
    cases ht
    have ht : { s with rnd := filterSample s.cfg p s.rnd }.internalPort := h
    rw [exec_rndFilter ht, filterSample_idem]

/-- Settles O59: RND.BEFORE has the body of RND.FILTER on the last tick's sample. -/
theorem renderPhases : Obligations.RenderPhases := fun s h =>
  have hbefore : exec .rndBefore s = .next (renderBefore s) := exec_internal h
  ⟨exec_internal h, hbefore.trans (exec_rndFilter h s.rnd.sample).symm, ⟨_, hbefore⟩, exec_internal h⟩

/-! ### STRATEGY = PULSE (R130; log 11) -/

/-- The opcodes on the way of set-coefficients are the four of log 11. -/
theorem answersSetcoef_eq_false {op : Byte} (h : op ∉ [(0x01 : Byte), 0x20, 0x21, 0x40]) :
    answersSetcoef op = false := by
  simpa [answersSetcoef, and_assoc] using h

/-- With STRATEGY = PULSE every service but set-coefficients is refused. -/
theorem bodyOf_service_pulse {i : Instr} {s : State} (hp : s.cfg.strategy = .pulse)
    (hi : opcodeOf i = none) (hcoef : i ≠ .mtSetcoeff) :
    bodyOf i s = .error (.refused .pulseStrategy) := by
  cases i <;> simp only [opcodeOf, reduceCtorEq] at hi
  case mtSetcoeff => exact absurd rfl hcoef
  all_goals exact pidOnly_pulse hp

theorem exec_service_pulse {i : Instr} {s : State} (h : s.inRun) (hp : s.cfg.strategy = .pulse)
    (hi : opcodeOf i = none) (hcoef : i ≠ .mtSetcoeff) :
    exec i s = .refused .pulseStrategy := by
  rw [exec_wire h hi, bodyOf_service_pulse hp hi hcoef, commit_refused]

/-- The reply to an oversize frame is none of those the PULSE setting keeps. -/
theorem drainEnd_pulse {s : State} (hp : s.cfg.strategy = .pulse) (hkind : s.fs.drainKind = .oversize)
    (hbcast : s.fs.bcast = false) : drainEnd s = .error (.refused .pulseStrategy) := by
  simp only [drainEnd, hkind, hbcast, Bool.false_eq_true, if_false]
  exact pidOnly_pulse hp

/-- BLK.BOOT reads the identity in BOOT with either strategy (R84, R130). -/
theorem exec_blkBoot {s : State} (hc : s.cfg.ok = true) (hm : s.blk.mode = .boot) (strap : BitVec 4) :
    exec (.blkBoot strap) s = .next (bootIdentity strap s) := by
  have hgate : exec (.blkBoot strap) s = commit s (bootOnce strap s) :=
    (portGate_answer hc rfl).trans (modeGate_boot hm rfl (.inl rfl))
  rw [hgate, bootOnce, hm]
  rfl

/-- FS.START runs in RUN with either strategy (R87, R130). -/
theorem exec_fsStart {s : State} (h : s.inRun) : exec .fsStart s = .next (startReceiver s) :=
  exec_answer h rfl rfl rfl nofun

/-- Settles O12: the gate of the configuration refuses what is not on the way of set-coefficients, in every
mode; what is on the way passes it, and refuses for itself what it cannot answer. -/
theorem pulseConfigurationRefused : Obligations.PulseConfigurationRefused := by
  intro s hc hp
  refine ⟨fun hport => ?_, fun c rest hport hop => ?_, fun i id c hcode hop => ?_, fun hm i hi => ?_,
    fun hm hst hleft hkind hbcast b => ?_, fun hm strap id hid => ?_, fun hm hst => ?_⟩
  · exact (step_idle hport).trans (configGate_pulse hc hp)
  · obtain ⟨body, hstep⟩ := step_is_gate hport
    exact hstep.trans (portGate_pulse hc hp (answersSetcoef_eq_false hop))
  · exact exec_pulse hc hp (opcodeOf_encode hcode) (answersSetcoef_eq_false hop)
  · have hservice : ∀ j ∈ [Instr.mtPing, .mtSelftest, .mtReadvalue, .mtSetbatch, .mtSleep, .mtError,
        .diagPing, .diagSelftest, .diagValue], opcodeOf j = none ∧ j ≠ .mtSetcoeff := by decide
    obtain ⟨hnone, hcoef⟩ := hservice i hi
    exact exec_service_pulse ⟨hc, hm⟩ hp hnone hcoef
  · rw [exec_fsRxbyte ⟨hc, hm⟩, rxByte_drain_last hst hleft, drainEnd_pulse, commit_refused]
    exacts [hp, hkind, hbcast]
  · rw [exec_blkBoot hc hm, bootIdentity, hid]
  · rw [exec_fsStart ⟨hc, hm⟩, startReceiver, if_pos hst]

end Sys2Proof.Machine

namespace Sys2Proof.Machine

/-! ### A step by the opcode of the command presented (R140, R143, R144)

The gates read the opcode and not the operand words, so what they decide holds of a step whatever words
follow the command word. -/

/-- An opcode outside the map (R143). -/
theorem step_opcode_unmapped {s : State} {c : Command} {rest : List Command} (h : s.notHalted)
    (hp : s.port = c :: rest) (hop : opClass (cmdOpcode c.cmd) = none) :
    step s = .next ((s.withPort rest).raise (.illegalOp (cmdOpcode c.cmd))) := by
  obtain ⟨body, hstep⟩ := step_is_gate hp
  have hrest : (s.withPort rest).notHalted := h
  exact hstep.trans (portGate_illegal hrest hop)

/-- An internal operation the port does not accept (R143). -/
theorem step_opcode_notInternal {s : State} {c : Command} {rest : List Command} (h : s.running)
    (hp : s.port = c :: rest) (hop : opClass (cmdOpcode c.cmd) = some .internal)
    (hi : s.cfg.portInternal = false) :
    step s = .next ((s.withPort rest).raise (.illegalOp (cmdOpcode c.cmd))) := by
  obtain ⟨body, hstep⟩ := step_is_gate hp
  have hrest : (s.withPort rest).running := h
  exact hstep.trans (portGate_notInternal hrest hop hi)

/-- An external or internal operation before boot (R140). -/
theorem step_opcode_beforeBoot {s : State} {c : Command} {rest : List Command} (h : s.defined)
    (hm : s.blk.mode = .boot) (hp : s.port = c :: rest)
    (hop : opClass (cmdOpcode c.cmd) = some .external ∨ opClass (cmdOpcode c.cmd) = some .internal) :
    step s = .next ((s.withPort rest).raise (.refused .beforeBoot)) := by
  obtain ⟨body, hstep⟩ := step_is_gate hp
  have hrest : (s.withPort rest).defined := h
  exact hstep.trans (portGate_beforeBoot hrest hm hop)

/-- In HALTED a step finds no operation that has one, whether a command is presented or not (R140, log 6). -/
theorem step_halted {s : State} (h : s.defined) (hm : s.blk.mode = .halted) :
    step s = .fault .halted := by
  cases hp : s.port with
  | nil =>
    rw [step_idle hp, execIdle, configGate_kept h.1 (keeps_of_pid h.2 _), hm]
  | cons c rest =>
    obtain ⟨body, hstep⟩ := step_is_gate hp
    have hrest : (s.withPort rest).defined := h
    exact hstep.trans (portGate_halted hrest hm)

/-- An instruction whose opcode is external or internal, before boot (R140). -/
theorem exec_beforeBoot {i : Instr} {op : Byte} {s : State} (h : s.defined) (hm : s.blk.mode = .boot)
    (hi : opcodeOf i = some op) (hop : opClass op = some .external ∨ opClass op = some .internal) :
    exec i s = .next (s.raise (.refused .beforeBoot)) := by
  rw [exec_eq, hi]
  exact portGate_beforeBoot h hm hop

/-! ### What raises a fault (R141, R142) -/

/-- The faults of the block that instruction `i` can raise from `s`, by their cause (R140, R142, R143). -/
inductive Raises (i : Instr) (s : State) : FaultInfo → Prop where
  | illegalOp (op : Byte) : opcodeOf i = some op → opClass op = some .internal → s.blk.mode = .run →
      s.cfg.portInternal = false → Raises i s (.illegalOp op)
  | beforeBoot : s.blk.mode = .boot → Raises i s (.refused .beforeBoot)
  | bootAfterBoot (strap : BitVec 4) : i = .blkBoot strap → s.blk.mode = .run →
      Raises i s (.refused .bootAfterBoot)

theorem bootOnce_raise {strap : BitVec 4} {s : State} {info : FaultInfo}
    (h : bootOnce strap s = .error (.raise info)) :
    s.blk.mode ≠ .boot ∧ info = .refused .bootAfterBoot := by
  unfold bootOnce at h
  split at h <;> rename_i hm
  · cases h
  all_goals cases h; exact ⟨by simp [hm], rfl⟩

/-- Behind its gate only BLK.BOOT raises, and only after boot (R84, R162). -/
theorem bodyOf_raise {i : Instr} {s : State} {info : FaultInfo} (hm : s.blk.mode ≠ .halted)
    (h : bodyOf i s = .error (.raise info)) : Raises i s info := by
  by_cases hi : ∃ strap, i = .blkBoot strap
  · obtain ⟨strap, rfl⟩ := hi
    obtain ⟨hboot, rfl⟩ := bootOnce_raise h
    have hrun : s.blk.mode = .run := by
      cases hmode : s.blk.mode with
      | boot => exact absurd hmode hboot
      | run => rfl
      | halted => exact absurd hmode hm
    exact .bootAfterBoot strap rfl hrun
  · exact absurd h (bodyOf_noRaise (fun strap e => hi ⟨strap, e⟩) info)

/-- An operation that sets BLK.fault does so by raising: no body writes the fault record. -/
theorem exec_sets_fault {i : Instr} {s t : State} (h : exec i s = .next t)
    (hs : s.blk.fault = false) (ht : t.blk.fault = true) :
    ∃ info, t = s.raise info ∧ Raises i s info := by
  have hchanged : t.blk.fault ≠ s.blk.fault := by simp [hs, ht]
  obtain ⟨-, hm, hbody | ⟨info, hbody, rfl⟩ | ⟨op, hi, rfl, hop⟩ | ⟨rfl, hboot⟩ | ⟨rfl, -⟩⟩ :=
    exec_next h
  · obtain ⟨-, -, hfault, -⟩ := bodyOf_block hbody
    exact absurd hfault hchanged
  · exact ⟨info, rfl, bodyOf_raise hm hbody⟩
  · obtain hnone | ⟨hint, hrun, hport⟩ := hop
    · exact absurd hnone (opcodeOf_mapped hi)
    · exact ⟨_, rfl, .illegalOp op hi hint hrun hport⟩
  · exact ⟨_, rfl, .beforeBoot hboot⟩
  · exact absurd rfl hchanged

/-- Nothing leaves HALTED, in any configuration (R140, R141). -/
theorem exec_halted_no_next {s : State} (hm : s.blk.mode = .halted) (i : Instr) (t : State) :
    exec i s ≠ .next t := by
  intro h
  obtain ⟨-, hne, -⟩ := exec_next h
  exact hne hm

/-! ### The statements on the mode gate and faults (R140 to R144) -/

/-- Settles O7, by the gate of the opcode: operand words are not read. -/
theorem illegalOpcodeRaises : Obligations.IllegalOpcodeRaises := by
  intro s c rest hd hp
  refine ⟨fun hop hm => ?_, fun hop hi hm => ?_, fun hm t h => ?_⟩
  · exact step_opcode_unmapped ⟨hd, hm⟩ hp hop
  · exact step_opcode_notInternal ⟨⟨hd.1, hm⟩, hd.2⟩ hp hop hi
  · rw [step_halted hd hm] at h
    cases h

/-- Settles O8, by the gate of the opcode, which an instruction read from the command shares with it. -/
theorem beforeBootRefused : Obligations.BeforeBootRefused := fun _ _ _ hd hm hp hop =>
  ⟨step_opcode_beforeBoot hd hm hp hop, fun _ hi => exec_beforeBoot hd hm (decodePort_opcode hi) hop⟩

/-- Settles O9: the mode gate stands before every operation, and before a step that finds none. -/
theorem haltedIsStuck : Obligations.HaltedIsStuck := fun _ hd hm =>
  ⟨step_halted hd hm, fun i => exec_halted i hd hm⟩

/-- Settles O13: the next state is the raised one, which is halted. -/
theorem faultWritesOnlyRecord : Obligations.FaultWritesOnlyRecord := by
  intro i s t h hs ht
  obtain ⟨info, rfl, -⟩ := exec_sets_fault h hs ht
  exact ⟨⟨info, rfl, rfl⟩, exec_halted_no_next rfl⟩

/-- Settles O14, by the cause of the fault: no case of `Raises` records PBUF bounds. -/
theorem faultCauses : Obligations.FaultCauses := by
  intro i s t h hs ht
  obtain ⟨info, rfl, hcause⟩ := exec_sets_fault h hs ht
  cases hcause with
  | illegalOp op hi hop hrun hport =>
    exact .inl ⟨op, rfl, encode_opcode hi s.cfg, hop, hrun, hport⟩
  | beforeBoot hboot => exact .inr (.inl ⟨rfl, hboot⟩)
  | bootAfterBoot strap hi hrun => exact .inr (.inr ⟨rfl, hrun, strap, hi⟩)

end Sys2Proof.Machine

namespace Sys2Proof.Machine

/-! ### The identity (R84, R162) -/

/-- The body of BLK.BOOT completes in BOOT only (R84). -/
theorem bootOnce_ok {strap : BitVec 4} {s t : State} (h : bootOnce strap s = .ok t) :
    s.blk.mode = .boot := by
  unfold bootOnce at h
  split at h
  · assumption
  all_goals cases h

/-- Settles O18: a raised fault leaves the identity, and of the bodies only that of BLK.BOOT writes it. -/
theorem identityReadOnce : Obligations.IdentityReadOnce := by
  refine ⟨fun s strap h => ?_, fun i s t h hchanged => ?_⟩
  · obtain ⟨-, -, hrun, -⟩ := bootReadsIdentity s strap ⟨h.1.1, h.2⟩
    exact hrun h.1.2
  · obtain hbody | rfl | ⟨info, rfl⟩ := exec_next_body h
    · by_cases hboot : ∃ strap, i = .blkBoot strap
      · obtain ⟨strap, rfl⟩ := hboot
        exact ⟨bootOnce_ok hbody, strap, rfl⟩
      · obtain ⟨-, -, -, -, hkept⟩ := bodyOf_block hbody
        exact absurd (hkept fun strap hi => hboot ⟨strap, hi⟩).2 hchanged
    · exact absurd rfl hchanged
    · exact absurd rfl hchanged

end Sys2Proof.Machine

namespace Sys2Proof.Machine

/-! ### Power-on reset (R155, R156) -/

/-- The parameters of configuration EX obey every constraint (R9, R10). -/
theorem ok_ex : Config.ex.ok = true := by decide

/-- Zero lies within the drive range of a legal configuration (R128; log 10). -/
theorem inDriveRange_zero {c : Config} (h : c.ok = true) : inDriveRange c 0 := by
  obtain ⟨hmax, -⟩ := ok_driveMax h
  refine ⟨?_, hmax⟩
  obtain ⟨hzero, hnan, hkey⟩ := (F32.le_iff _ _).mp hmax
  have hkey0 : F32.key 0 = 0 := by decide
  rw [F32.le_iff, F32.isNaN_neg, F32.key_neg]
  exact ⟨hnan, hzero, by omega⟩

/-- Power-on reset meets the invariant in every legal configuration: nothing is received, queued or played,
and CK_INIT and DRIVE_MAX are in range by R10. -/
theorem Inv.resetOf {c : Config} (h : c.ok = true) : Inv (State.resetOf c) where
  config := h
  memory := rfl
  checksum := ⟨ok_ckInit h, ckTrunc_zero c⟩
  mode := ⟨fun _ => ⟨rfl, rfl, rfl, rfl⟩, nofun, nofun, rfl⟩
  frame := .of_no_frame nofun nofun nofun
  scheduler := ⟨Nat.zero_le _, nofun, nofun, nofun, show -127 ≤ (0 : Byte).toInt by decide⟩
  pid := inDriveRange_zero h

/-- Settles O1, register by register: PBUF lists no byte, so every address reads as unlisted. -/
theorem resetValues : Obligations.ResetValues :=
  ⟨rfl, rfl, rfl, rfl, Memory.read_nil, rfl, rfl, rfl⟩

/-- Settles O2, by the invariant at the reset of any legal configuration, of which EX is one. -/
theorem resetMeetsInvariant : Obligations.ResetMeetsInvariant := Inv.resetOf ok_ex

end Sys2Proof.Machine
